-- ==== Sys2Proof/Word.lean ====
section
/-! DEFINITION. The word types of the register file, the memories and the links. -/

namespace Sys2Proof

/-- A byte of a memory, a parcel or a ring entry. -/
abbrev Byte := BitVec 8

/-- A BAR0 register (R7 of the notation: all registers are 32 bits wide). -/
abbrev Word := BitVec 32

end Sys2Proof
end

