-- ==== Sys2Proof/Syntax.lean ====
section
/-! DEFINITION. The commands of the LQ-4816 module, one constructor for each row of the operation and event table
(opcode_table.json), with the operands its sender or its surroundings supply: which die, the value written, the block,
parcel, message or reply that arrives, the reading that is measured. -/

namespace Sys2Proof

/-- The two dies of a module (R2, R18): die W drives the left half and die E the right half. -/
inductive DieId where
  | W
  | E
deriving DecidableEq, Repr

/-- The other die of the module. -/
def DieId.other : DieId → DieId
  | .W => .E
  | .E => .W

/-- A logical lane of a Quodo port (R91). -/
abbrev Lane := Fin 4

/-- A DMA channel (R199). -/
abbrev Chan := Fin 16

/-- A group of 8 LDB lanes with one echo line (R309). -/
abbrev Group := Fin 4

/-- What the keeper's and the dies' sensors read: VIN in 10 mV, input current in mA, and the temperatures in 0.25 °C,
two's complement (PWR_VIN, PWR_TEMP). The readings come from outside the model. -/
structure Meas where
  vin  : BitVec 16
  iin  : BitVec 16
  base : BitVec 16
  dieW : BitVec 16
  dieE : BitVec 16
deriving DecidableEq, Repr

/-- A parcel as its port has delimited it (R114, R118): its bytes after the START block's BTYPE (header, payload, padding,
alive counter, check value), and whether a block of it was lost (R112). -/
structure RxParcel where
  bytes : List Byte
  lost  : Bool
deriving DecidableEq, Repr

/-- What a stitch message carries around its payload (R166): the 4-byte header, the alive counter and the check value. -/
structure StiHead where
  header : BitVec 32
  alive  : BitVec 16
  check  : BitVec 32
deriving DecidableEq, Repr

/-- LOCK payload (R167, R169): frame number, start CCLK count and readiness. Without `start` it carries readiness alone. -/
structure StiLock where
  frame : Nat
  start : Option Nat
  ready : Bool
deriving DecidableEq, Repr

/-- The sync fields that cross the stitch, CORR with the link delay in it, and the arrival stamp: the CCLK count in sixteenths
(R135, R136, R167). -/
structure SyncRelay where
  master  : Byte
  mhops   : Byte
  syncSeq : BitVec 16
  mdist   : Byte
  origin  : BitVec 64
  corr    : Nat
  flags   : Byte
  arrival : Nat
deriving DecidableEq, Repr

/-- TIME payload (R134, R136, R167): the hop counts from the two ends through a port, that port, and a sync that is relayed. -/
structure StiTime where
  hopsA : Byte
  hopsB : Byte
  port  : DieId
  sync  : Option SyncRelay
deriving DecidableEq, Repr

/-- A TIME message as it arrives: the message, and the sixteenth of the CCLK in which the START block of a sync that it relays departs
(R135). -/
structure StiTimeIn where
  msg : StiTime
  sub : BitVec 4
deriving DecidableEq, Repr

/-- What a PARCEL message is for at the die that receives it (R117, R119, R168): a parcel received on the other die's port,
or one that the other die originates and that goes out of this die's port, before its alive counter and check are added. -/
inductive StiParcelKind where
  | received
  | originated (auth : Bool)
deriving DecidableEq, Repr

/-- PARCEL payload (R168). -/
structure StiParcel where
  kind  : StiParcelKind
  bytes : List Byte
deriving DecidableEq, Repr

/-- STATUS payload (R167): the other die's PWR_STATE code, join state, lanes in traffic and event summary; `woke` reports a
wake from SILLAGE-DEEP (R329) and `refRestored` that REFCLK_RESTORED has been raised (R78), the parts of the event summary
that rules read. -/
structure StiStatus where
  power       : BitVec 4
  join        : BitVec 3
  lanes       : BitVec 4
  woke        : Bool
  refRestored : Bool
  quiet       : Bool
deriving DecidableEq, Repr

/-- BLOTTER payload (R341). -/
structure StiBlotter where
  frame    : Nat
  mismatch : BitVec 16
  armed    : BitVec 16
deriving DecidableEq, Repr

/-- The engines that host commands start (R186, R187). -/
inductive Engine where
  | table
  | trim
  | store
  | wear
  | service
  | scan
  | panel
  | accord
deriving DecidableEq, Repr

/-- What the outside supplies as an engine works: the bytes read from host memory or from the PID bus, the bytes moved
before a host memory access failed (R194), the bytes copied before a PID transfer failed (R320), the DRAM words found
correctable (R224), and an uncorrectable DRAM word that the engine met (R225). -/
structure EngineIo where
  data      : List Byte
  hostAbort : Option Nat
  busFail   : Option Nat
  ce        : List Nat
  ue        : Option Nat
deriving DecidableEq, Repr

/-- Why the host link goes down (R195, R366). -/
inductive LinkDown where
  | surprise
  | perstLow
  | hotReset
  | linkDisable
deriving DecidableEq, Repr

/-- How the endpoint's link has trained and what the host has programmed in configuration space (R176, R178, R179): the payload
size, the read request size, Enable Relaxed Ordering, MSI-X Enable and the MSI-X Function Mask. -/
structure PcieLink where
  gen        : Fin 3
  x2         : Bool
  mps        : Fin 3
  mrrs       : Fin 6
  roEnable   : Bool
  msixEnable : Bool
  msixMask   : Bool
deriving DecidableEq, Repr

/-- What the outside supplies as a descriptor runs: the bytes read from a HOST source, whether a HOST access failed, and the
DRAM words found correctable or uncorrectable, and the scratch words found uncorrectable, on the way (R208, R216, R224). -/
structure DmaIo where
  data      : List Byte
  hostAbort : Bool
  ce        : List Nat
  ue        : List Nat
  sue       : List Nat
deriving DecidableEq, Repr

/-- What an ABORT finds at its end: how many bytes of the descriptor had left the engine, and what the outside supplied for them. -/
structure AbortIo where
  left : Nat
  io   : DmaIo
deriving DecidableEq, Repr

/-- Memory errors that the scrubber has met: word addresses (R224). -/
structure ScrubMet where
  ce : List Nat
  ue : List Nat
deriving DecidableEq, Repr

/-- A wall's order at a die, and whether the host's order at the head of that die's ring reaches its field in the same CCLK (R151). -/
structure FieldTurn where
  die  : DieId
  same : Bool
deriving DecidableEq, Repr

/-- Memory errors met and class 2 words late while a line is processed (R216, R224–R226): word addresses. -/
structure MemObs where
  ce   : List Nat
  ue   : List Nat
  sue  : List Nat
  late : List Nat
deriving DecidableEq, Repr

/-- The keys of the alive test (R233). `far` is the port reached through the stitch. -/
inductive AliveKey where
  | parcel (src : Byte) (ty : BitVec 4) (nextHop far : Bool)
  | stitch (cls : BitVec 4)
  | ldb (lane : Fin 32)
  | host
deriving DecidableEq, Repr

/-- The outcome of reading the panel's identity memory on the PID bus (R319). -/
inductive IdRead where
  | noAck
  | held
  | record (bytes : List Byte)
deriving DecidableEq, Repr

/-- The replies to one ECHO_TRAIN probe, by transmission: the words received, none where no SYNC came within 8 µs (R310). -/
abbrev Replies := List (Option (List (BitVec 16)))

/-- What a trim step has found (R346–R348): DESKEW gives the replies to the probe of each tap; THRESH gives those of each of the
32 taps of an ECHO input, and per tap whether the input was seen low and high; RXOFF whether the data and the offset sampler of the
lane split evenly; `stopped` that lock was lost during the step. -/
inductive TrimResult where
  | deskew (probes : List Replies)
  | thresh (probes : List Replies) (low high : BitVec 32)
  | rxoff (data offset : Bool)
  | stopped
deriving DecidableEq, Repr

/-- The commands. Each docstring is the table's summary, with the rule the table names. -/
inductive Instr where
  /-- KEEPER_START (R48): PRESENT_L closes while VIN is at or above 18.0 V (or VIN rises through 18.0 V with PRESENT_L
  closed); the keeper starts and the module moves from OFF to INSERTING. -/
  | keeperStart (maddr : BitVec 3) (nvOk modEn ejectClosed : Bool)
  /-- KEEPER_STOP (R48): VIN falls below 16.0 V; the keeper stops and the module goes to OFF. -/
  | keeperStop
  /-- PRESENT_L_OPEN (R27): PRESENT_L opens; the input switch turns off within 10 µs, the R52 hand-off follows and the
  module goes to OFF. -/
  | presentLOpen
  /-- INSERTION_SETTLED (R55): PRESENT_L has been stable for 20 ms and the keeper is initialised; the module moves from
  INSERTING to DORMANT. -/
  | insertionSettled
  /-- INPUT_SWITCH_CLOSE (R49): VIN has been inside 34.5–76.0 V for 100 ms while a wake request stands and no fault holds;
  the input switch closes and the bulk ramp starts. -/
  | inputSwitchClose
  /-- BULK_RAMP_DONE (R50): The bulk voltage comes within 2 V of VIN and the dies' converters start. -/
  | bulkRampDone
  /-- INRUSH_FAULT (R50): The bulk ramp has not reached VIN − 2 V after 100 ms; the switch opens and the module enters
  FAULT-HOLD. -/
  | inrushFault
  /-- POWER_GOOD (R367): The converters reach power good; both dies enter BOOTING and begin their self-initialisation. -/
  | powerGood (storeOkW storeOkE : Bool)
  /-- CONVERTER_START_TIMEOUT (R59): A converter has not reached power good 20 ms after the converters started; the module
  enters FAULT-HOLD with RAIL_FAULT. -/
  | converterStartTimeout
  /-- RAIL_FAULT (R59): A converter output stays outside ±8 % for more than 50 µs; the dies hand off and the module enters
  FAULT-HOLD. -/
  | railFault
  /-- UNDERVOLTAGE (R49): VIN stays below 33.0 V for 10 µs; the input switch opens, the dies hand off and the module goes
  to DORMANT. -/
  | undervoltage
  /-- OVERVOLTAGE (R49): VIN stays above 78.0 V for 1 µs or more; the input switch opens within 2 µs and the module goes
  to DORMANT. -/
  | overvoltage
  /-- BULK_DEPLETED (R52): After the switch opens, the bulk voltage falls to 28 V and the dies stop. -/
  | bulkDepleted
  /-- THERMAL_WARN (R45): The baseplate reference point rises above 95 °C; the module raises THERMAL_WARN and may drive
  FAULT_L. -/
  | thermalWarn (base : BitVec 16)
  /-- THERMAL_TRIP (R45): A die rises above 125 °C; both dies hand off and the module enters FAULT-HOLD. -/
  | thermalTrip (d : DieId) (die base : BitVec 16)
  /-- EJECT_L_FILTERED (R60): A closed EJECT_L passes its 1 ms filter; the module starts Drydown, or goes straight to
  DORMANT from BOOTING. -/
  | ejectLFiltered
  /-- EJECT_L_RELEASE (R56): EJECT_L opens after its filter, restoring a wake request unless another condition withholds
  it. -/
  | ejectLRelease
  /-- MOD_EN_LOW (R57): MOD_EN goes low, forcing DORMANT (through DRYDOWN where needed) and holding it. -/
  | modEnLow
  /-- MOD_EN_RISE (R56): A rising edge on MOD_EN clears MFR_DORMANT_HOLD and, after a falling edge, clears FAULT-HOLD. -/
  | modEnRise
  /-- RTC_TICK (R65): The keeper's real-time counter advances by one second. -/
  | rtcTick (m : Meas)
  /-- RTC_SAVE (R65): Every 60 s the keeper writes the real-time counter to its non-volatile record. -/
  | rtcSave
  /-- OPERATION (R63): SMBus read byte OPERATION returns 0x80 while any die is powered, otherwise 0x00. -/
  | operation (pec : Bool)
  /-- CLEAR_FAULTS (R58): SMBus CLEAR_FAULTS clears the status bits and SMB_ALERT_L, and clears FAULT-HOLD where the R58
  conditions allow. -/
  | clearFaults (pec : Option Byte)
  /-- CAPABILITY (R63): SMBus CAPABILITY returns 0x90. -/
  | capability (pec : Bool)
  /-- STATUS_BYTE (R63): SMBus STATUS_BYTE returns the summary status bits. -/
  | statusByte (pec : Bool)
  /-- STATUS_WORD (R63): SMBus STATUS_WORD returns STATUS_BYTE together with the INPUT and MFR_SPECIFIC bits. -/
  | statusWord (pec : Bool)
  /-- STATUS_INPUT (R63): SMBus STATUS_INPUT returns the input overvoltage and undervoltage bits. -/
  | statusInput (pec : Bool)
  /-- STATUS_TEMPERATURE (R63): SMBus STATUS_TEMPERATURE returns the over-temperature fault and warning bits. -/
  | statusTemperature (pec : Bool)
  /-- STATUS_CML (R63): SMBus STATUS_CML returns the invalid-command and PEC-failed bits. -/
  | statusCml (pec : Bool)
  /-- STATUS_MFR_SPECIFIC (R63): SMBus STATUS_MFR_SPECIFIC returns the WAKE_REFUSED, INRUSH, RAIL and SURPRISE bits. -/
  | statusMfrSpecific (pec : Bool)
  /-- READ_VIN (R63): SMBus READ_VIN returns VIN in LINEAR11 format with exponent −3. -/
  | readVin (m : BitVec 11) (pec : Bool)
  /-- READ_IIN (R63): SMBus READ_IIN returns the input current in LINEAR11 format with exponent −9. -/
  | readIin (m : BitVec 11) (pec : Bool)
  /-- READ_TEMPERATURE_1 (R63): SMBus READ_TEMPERATURE_1 returns the baseplate temperature. -/
  | readTemperature1 (pec : Bool)
  /-- READ_TEMPERATURE_2 (R63): SMBus READ_TEMPERATURE_2 returns die W's temperature, or 0 while die W is unpowered. -/
  | readTemperature2 (pec : Bool)
  /-- READ_TEMPERATURE_3 (R63): SMBus READ_TEMPERATURE_3 returns die E's temperature, or 0 while die E is unpowered. -/
  | readTemperature3 (pec : Bool)
  /-- READ_PIN (R63): SMBus READ_PIN returns the input power in LINEAR11 format with exponent −4. -/
  | readPin (m : BitVec 11) (pec : Bool)
  /-- PMBUS_REVISION (R63): SMBus PMBUS_REVISION returns 0x33. -/
  | pmbusRevision (pec : Bool)
  /-- MFR_ID (R63): SMBus block read MFR_ID returns "OVRUORN". -/
  | mfrId (pec : Bool)
  /-- MFR_MODEL (R63): SMBus block read MFR_MODEL returns the model and variant string. -/
  | mfrModel (pec : Bool)
  /-- MFR_SERIAL (R394): SMBus block read MFR_SERIAL returns the 14-character serial. -/
  | mfrSerial (pec : Bool)
  /-- MFR_WAKE (R56): SMBus MFR_WAKE clears MFR_DORMANT_HOLD; while MOD_EN is low it only sets WAKE_REFUSED. -/
  | mfrWake (pec : Option Byte)
  /-- MFR_GO_DORMANT (R56): SMBus MFR_GO_DORMANT sets MFR_DORMANT_HOLD and starts the transition to DORMANT. -/
  | mfrGoDormant (pec : Option Byte)
  /-- MFR_STATE (R63): SMBus MFR_STATE returns the power state of each die. -/
  | mfrState (pec : Bool)
  /-- MFR_RTC_READ (R63): SMBus block read MFR_RTC returns the 48-bit real-time counter. -/
  | mfrRtcRead (pec : Bool)
  /-- MFR_RTC_WRITE (R65): SMBus block write MFR_RTC sets the real-time counter. -/
  | mfrRtcWrite (rtc : BitVec 48) (pec : Option Byte)
  /-- MFR_LAST_OFF (R63): SMBus MFR_LAST_OFF returns the last-off cause. -/
  | mfrLastOff (pec : Bool)
  /-- MFR_DORMANT_HOLD_READ (R63): SMBus read of MFR_DORMANT_HOLD returns the hold bit. -/
  | mfrDormantHoldRead (pec : Bool)
  /-- MFR_DORMANT_HOLD_SET (R56): SMBus write of MFR_DORMANT_HOLD with bit 0 at 1 sets the hold and acts as
  MFR_GO_DORMANT. -/
  | mfrDormantHoldSet (hi : BitVec 7) (pec : Option Byte)
  /-- MFR_DORMANT_HOLD_CLEAR (R56): SMBus write of MFR_DORMANT_HOLD with bit 0 at 0 clears the hold and acts as MFR_WAKE. -/
  | mfrDormantHoldClear (hi : BitVec 7) (pec : Option Byte)
  /-- MFR_TRIP_COUNTS (R63): SMBus MFR_TRIP_COUNTS returns the undervoltage and overvoltage trip counts. -/
  | mfrTripCounts (pec : Bool)
  /-- SMBUS_INVALID_COMMAND (R63): An unsupported SMBus command code is not acknowledged, and STATUS_CML bit 7 is set. -/
  | smbusInvalidCommand (code : Byte)
  /-- ALERT_RESPONSE (R64): A read of the Alert Response Address returns the keeper's address and releases SMB_ALERT_L. -/
  | alertResponse (pec : Bool)
  /-- CCLK_LOCK (R70): The CCLK PLL locks to a valid REFCLK, which allows BOOTING to complete. -/
  | cclkLock (d : DieId)
  /-- BOOT_REFCLK_TIMEOUT (R70): REFCLK is still absent 10 ms after entry to BOOTING; the die raises REFCLK_LOST once. -/
  | bootRefclkTimeout (d : DieId)
  /-- REFCLK_LOST (R74): REFCLK has no edge for 200 ns, or is off-frequency for 10 µs; the die freezes its tuning word,
  enters holdover and raises REFCLK_LOST. -/
  | refclkLost (d : DieId)
  /-- REFCLK_HOLDOVER_EXPIRED (R76): REFCLK has not returned 1 s after it was lost; the die turns off its Quodo
  transmitters. -/
  | refclkHoldoverExpired (d : DieId)
  /-- REFCLK_RETURN (R77): REFCLK has been valid again for 10 ms; the PLL starts slewing back to lock. -/
  | refclkReturn (d : DieId)
  /-- REFCLK_RESTORED (R77): The slew back to lock completes; the die clears HOLDOVER, raises REFCLK_RESTORED and retrains
  its lanes if they were off. -/
  | refclkRestored (d : DieId)
  /-- EB_SLIP (R72): A Quodo in-lane elastic buffer overflows or underflows and slips one block, which is treated as lost. -/
  | ebSlip (d : DieId) (k : Lane)
  /-- GCLK_REQUEST (R83): A write of CLK_GCLK_NEXT.FWORD makes a GCLK request; the idle synthesiser starts, or a pending
  request is replaced or cancelled. -/
  | gclkRequest (d : DieId) (v : Word)
  /-- GCLK_IDLE_LOCK (R83): The idle synthesiser's lock detector reports lock, and the settle count starts. -/
  | gclkIdleLock (d : DieId)
  /-- GCLK_LOCK_TIMEOUT (R85): The idle synthesiser has not locked 1 ms after it started; it is restarted once, or given
  up on the second failure. -/
  | gclkLockTimeout (d : DieId)
  /-- GCLK_SETTLE_DONE (R83): The idle synthesiser has completed its 4096 settle cycles, and the switch waits for a
  segment boundary. -/
  | gclkSettleDone (d : DieId)
  /-- GCLK_SWITCH (R83): At the segment boundary the output switch is armed and GCLK moves to the new synthesiser. -/
  | gclkSwitch (d : DieId)
  /-- GCLK_SEG_WRITE (R318): A write of CLK_GCLK_SEG sets a new segment length from the next boundary; while LDB is
  enabled, a length that would break OFF_GCLK or R313 is refused. -/
  | gclkSegWrite (d : DieId) (v : Word)
  /-- LDB_RATE_WRITE (R80): A write of CLK_LDB_RATE is stored only while the formatter is disabled, otherwise it raises
  LDB_RATE_REFUSED. -/
  | ldbRateWrite (d : DieId) (v : Word)
  /-- QPHY_ENABLE (R96): QPHY_CFG.ENABLE is set; the lanes leave DISABLED for DETECT and port training begins. -/
  | qphyEnable (d : DieId) (v : Word)
  /-- QPHY_DISABLE (R96): QPHY_CFG.ENABLE is cleared and every lane returns to DISABLED. -/
  | qphyDisable (d : DieId) (v : Word)
  /-- QPHY_RATE_WRITE (R88): A write that changes QPHY_CFG.RATE is stored only while ENABLE is 0. -/
  | qphyRateWrite (d : DieId) (v : Word)
  /-- LANE_DETECT (R96): An in-lane's input swing stays above 60 mVppd for 10 µs; the lane moves to CDR_ACQ. -/
  | laneDetect (d : DieId) (k : Lane)
  /-- CDR_LOCK (R96): The lane's CDR reports lock; the lane moves to BLOCK_LOCK. -/
  | cdrLock (d : DieId) (k : Lane)
  /-- BLOCK_LOCK (R96): 64 consecutive valid sync headers are followed by a good TS; the lane moves to TAP_TUNE, or to
  VERIFY when tuning is skipped. -/
  | blockLock (d : DieId) (k : Lane) (ts : BitVec 64)
  /-- TS_RECEIVE (R93): A training block is received; the die maps lane order and polarity, checks RATE, handles tap
  requests and tracks RX_READY. -/
  | tsReceive (d : DieId) (phys : Lane) (inv : Bool) (ts : BitVec 64)
  /-- TAP_TUNE_POINT_DONE (R97): The eye measurement at one tap setting completes; the receiver keeps the best setting and
  requests the next. -/
  | tapTunePointDone (d : DieId) (k : Lane) (height width : Byte)
  /-- LANE_TAP_ECHO_MISMATCH (R97): The partner's echo has not matched a request within 100 µs; the search ends and the
  lane goes to VERIFY. -/
  | laneTapEchoMismatch (d : DieId) (k : Lane)
  /-- VERIFY_PASS (R98): VERIFY passes and the RX_READY handshake completes; the lane becomes ACTIVE. -/
  | verifyPass (d : DieId) (k : Lane) (height width : Byte)
  /-- LANE_TRAIN_TIMEOUT (R100): A training state times out; the lane falls back and the attempt is counted as failed,
  except in TAP_TUNE. -/
  | laneTrainTimeout (d : DieId) (k : Lane)
  /-- LANE_FAILED_RETRY (R100): 1 s after entering FAILED, the lane retries from DETECT. -/
  | laneFailedRetry (d : DieId) (k : Lane)
  /-- LANE_LOCK_LOST (R99): An ACTIVE lane loses CDR lock or sees 16 bad sync headers in 64; it retrains and sets
  RETRAIN_REQ. -/
  | laneLockLost (d : DieId) (k : Lane)
  /-- LS_RECEIVE (R94): A status block is received, carrying RX_LOCK, retrain and service requests and tap requests. -/
  | lsReceive (d : DieId) (ls : BitVec 64)
  /-- LANE_SERVICE (R102): Command: takes one in-lane out of traffic for a PRBS test, or completes with BUSY if not all
  lanes are ACTIVE. -/
  | laneService (d : DieId)
  /-- LANE_SERVICE_END (R102): The service duration expires; SERVICE_REQ is cleared and the lane goes through VERIFY back
  into traffic. -/
  | laneServiceEnd (d : DieId) (k : Lane) (errors bits : Nat)
  /-- PRBS_SYNC (R103): The PRBS checker sees 1024 error-free bits and declares sync. -/
  | prbsSync (d : DieId) (k : Lane)
  /-- PRBS_SYNC_LOSS (R103): 256 or more errors fall in 1024 bits; the checker loses sync and seeds again. -/
  | prbsSyncLoss (d : DieId) (k : Lane) (errors bits : Nat)
  /-- PRBS_NO_SYNC (R103): No PRBS sync has been reached 10 ms after service began. -/
  | prbsNoSync (d : DieId) (k : Lane)
  /-- EYE_SCAN (R104): Command: starts an eye scan of one lane with the given strides and dwell. -/
  | eyeScan (d : DieId)
  /-- EYE_SCAN_DONE (R104): The eye scan completes; the result is written to the host buffer and EYE_SCAN_DONE is raised. -/
  | eyeScanDone (d : DieId) (counts : List (BitVec 16)) (hostAbort : Option Nat)
  /-- MARGIN_CROSS_SCAN (R105): Every PERIOD seconds each ACTIVE lane runs a cross scan and updates its eye height and
  width. -/
  | marginCrossScan (d : DieId) (k : Lane) (height width : Byte)
  /-- LANE_PARTNER_ASLEEP (R328): After LEAVING, the partner drops in-lanes 1–3 while lane 0 stays ACTIVE; lanes 1–3 go
  ASLEEP within 1 ms. -/
  | lanePartnerAsleep (d : DieId)
  /-- CC_SLOT_SEND (R109): The transmitter sends a CC slot at least every 2048 block times, or whenever its queue is
  empty. -/
  | ccSlotSend (d : DieId)
  /-- CC_SLOT_RECEIVE (R110): A CC slot is received; the four in-lanes are aligned, and lanes waiting to join enter
  traffic. -/
  | ccSlotReceive (d : DieId) (b0 b1 b2 b3 : BitVec 66)
  /-- STRIPE_RECEIVE (R110): A stripe is received and descrambled; a single missing block is reconstructed and a parity
  mismatch is counted. -/
  | stripeReceive (d : DieId) (b0 b1 b2 b3 : BitVec 66)
  /-- CC_SLOT_MISSING (R109): No CC slot has arrived for 4096 block times; the lanes keep the last alignment. -/
  | ccSlotMissing (d : DieId)
  /-- PARCEL_OPEN_TIMEOUT (R118): A parcel whose LEN block was lost stays open until 7203 blocks have been taken, then
  ends as failed. -/
  | parcelOpenTimeout (d : DieId)
  /-- PARCEL_TRANSMIT (R119): At a parcel boundary the transmitter chooses the next parcel (local TIME first, then the
  forward queue) and sends it. -/
  | parcelTransmit (d : DieId)
  /-- VIDEO_PARCEL_RECEIVE (R121): A VIDEO parcel is taken whole, checked, alive-tested, forwarded and, when accepted, its
  slice is committed. -/
  | videoParcelReceive (d : DieId) (p : RxParcel)
  /-- PARCEL_TYPE_UNKNOWN (R116): A parcel with a reserved TYPE is forwarded and accepted by no module; an addressed
  module raises the event. -/
  | parcelTypeUnknown (d : DieId) (p : RxParcel)
  /-- CTRL_PARCEL_RECEIVE (R124): A CTRL parcel is authenticated, tested against its window, queued or refused, and
  answered. -/
  | ctrlParcelReceive (d : DieId) (p : RxParcel)
  /-- ACK_RECEIVE (R127): An ACK or NAK that matches an outstanding command answers it, clears MISSING and may complete an
  ACCORD_SEND. -/
  | ackReceive (d : DieId) (p : RxParcel)
  /-- STAT_RECEIVE (R148): A STAT parcel is forwarded; one that answers a STATUS_QUERY from this die is handed to the
  origin die. -/
  | statReceive (d : DieId) (p : RxParcel)
  /-- STAT_SEND (R128): Every STAT_PERIOD the die sends a STAT parcel out of each port that faces the sender. -/
  | statSend (d : DieId)
  /-- CTRL_RETRANSMIT_TIMEOUT (R127): 250 µs pass without an answer; the origin retransmits with RETX, up to 4 times, then
  marks the destination MISSING. -/
  | ctrlRetransmitTimeout (d : DieId) (dst : Byte) (seq : BitVec 16)
  /-- NAK_BUSY_RETRY (R149): At least 1 ms after NAK_BUSY, the die origin sends the command again with the same SEQ, up to
  8 times. -/
  | nakBusyRetry (d : DieId) (dst : Byte) (seq : BitVec 16)
  /-- SYNC_SEND (R130): Every 1.000 ms a die sends a SYNC out of its own port; a master originates ORIGIN from its Accord
  time. -/
  | syncSend (d : DieId) (sub : BitVec 4)
  /-- SYNC_RECEIVE (R136): A SYNC is taken; hop counts, link delay, master claims, time and rate are updated and the join
  advances. -/
  | syncReceive (d : DieId) (p : RxParcel) (sub : BitVec 4)
  /-- BEACON_RECEIVE (R134): A BEACON from the sender sets the hop count and upstream orientation of the port. -/
  | beaconReceive (d : DieId) (p : RxParcel)
  /-- TIME_PARCEL_BAD_KIND (R130): A TIME parcel with an unknown KIND is accepted, discarded and counted in
  ACC_ACD_BADTIME. -/
  | timeParcelBadKind (d : DieId) (p : RxParcel)
  /-- HOP_COUNT_EXPIRE (R134): A hop count not refreshed for 3.000 ms becomes unknown. -/
  | hopCountExpire (d : DieId) (endB far : Bool)
  /-- MASTER_CLAIM (R138): A die with ROLE MASTER claims at the end of its join, or at once when it sees no master, and
  starts originating syncs. -/
  | masterClaim (d : DieId)
  /-- MASTER_TAKEOVER (R139): A standby or yielded master sees no sync from the master for 3.000 ms and takes the role
  with phase continuity. -/
  | masterTakeover (d : DieId)
  /-- ACCORD_SYNC_LOST (R140): A member has had no usable sync for 1 s of holdover. -/
  | accordSyncLost (d : DieId)
  /-- ACCORD_NO_MASTER (R140): No claim has been seen for 3.000 ms. -/
  | accordNoMaster (d : DieId)
  /-- FRAME_DONE_RECEIVE (R143): FRAME_DONE is accepted; the master stamps the frame and settlement advances. -/
  | frameDoneReceive (d : DieId) (p : RxParcel)
  /-- DEADLINE_REPEAT (R130): 100 µs after the first DEADLINE, the master sends the second copy. -/
  | deadlineRepeat (d : DieId)
  /-- DEADLINE_RECEIVE (R144): A die takes P(F) from the first DEADLINE with the current MASTER. -/
  | deadlineReceive (d : DieId) (p : RxParcel)
  /-- WALL_NOP (R146): Wall command NOP executes at the queue head and has no effect. -/
  | wallNop (d : DieId)
  /-- WALL_SET_FIELD (R151): Wall command SET_FIELD orders a shared field under the ownership rules. -/
  | wallSetField (t : FieldTurn)
  /-- WALL_STATUS_QUERY (R148): Wall command STATUS_QUERY makes the die send a STAT answer to the query's SRC. -/
  | wallStatusQuery (d : DieId)
  /-- WALL_ADDR_ASSIGN (R147): Wall command ADDR_ASSIGN writes ADDR into a die that has address 0x00 and matching HEND and
  HOPS. -/
  | wallAddrAssign (d : DieId)
  /-- WALL_ROLE_SET (R147): Wall command ROLE_SET writes ACC_ACD_ROLE. -/
  | wallRoleSet (d : DieId)
  /-- WALL_LATENCY_SET (R147): Wall command LATENCY_SET writes ACC_ACD_LATENCY. -/
  | wallLatencySet (d : DieId)
  /-- ACC_ACD_KEY_WRITE (R154): A write of an Accord key register is stored until the seal and has no effect after it. -/
  | accAcdKeyWrite (d : DieId) (k : Fin 4) (v : Word)
  /-- STITCH_STATUS_SEND (R167): Every 256 CCLK the die sends a STATUS message over the stitch. -/
  | stitchStatusSend (d : DieId)
  /-- STITCH_TIME_SEND (R167): Every 1.000 ms the die sends a TIME message over the stitch. -/
  | stitchTimeSend (d : DieId)
  /-- STITCH_LOCK_RECEIVE (R169): A LOCK message carries readiness or the frame start count, and the follower starts in
  that CCLK. -/
  | stitchLockReceive (d : DieId) (h : StiHead) (m : StiLock)
  /-- STITCH_TIME_RECEIVE (R167): A TIME message shares hop counts and relayed sync fields between the dies. -/
  | stitchTimeReceive (d : DieId) (h : StiHead) (m : StiTimeIn)
  /-- STITCH_PARCEL_RECEIVE (R168): A PARCEL message delivers a crossing parcel for acceptance or forwarding. -/
  | stitchParcelReceive (d : DieId) (h : StiHead) (m : StiParcel)
  /-- STITCH_STATUS_RECEIVE (R171): A STATUS message updates the peer status and advances training. -/
  | stitchStatusReceive (d : DieId) (h : StiHead) (m : StiStatus) (peerGood : Bool) (latency : Byte)
  /-- STITCH_BLOTTER_RECEIVE (R341): A BLOTTER message updates BLT_PEER. -/
  | stitchBlotterReceive (d : DieId) (h : StiHead) (m : StiBlotter)
  /-- STITCH_TRAIN_START (R171): In DOWN, a training attempt starts at once and then every 10 ms. -/
  | stitchTrainStart (d : DieId)
  /-- STITCH_TRAIN_FAIL (R171): A training attempt ends after 200 µs without success; the stitch returns to DOWN. -/
  | stitchTrainFail (d : DieId)
  /-- STITCH_DOWN (R171): No good message for 4096 CCLK, or 4 failing messages, takes the stitch to DOWN. -/
  | stitchDown (d : DieId)
  /-- STITCH_HOLD_EXPIRED (R174): The cut-off die's HOLD_MS interval expires, and it hands off at its next frame end. -/
  | stitchHoldExpired (d : DieId)
  /-- PEER_STATE_CHANGE (R171): The keeper reports a change in the other die's power state; leaving BOOTING starts a
  training attempt. -/
  | peerStateChange (d : DieId)
  /-- DOORBELL_POLL (R182): The poll period expires and the die starts a 64-byte read of the doorbell block. -/
  | doorbellPoll (d : DieId)
  /-- DOORBELL_READ_DONE (R182): The doorbell read completes; the die finds work, frees ring space and starts fetching
  commands. -/
  | doorbellReadDone (d : DieId) (r : Option (List Byte))
  /-- COMMAND_FETCH_DONE (R183): Command entries arrive from host memory and CMD_HEAD advances. -/
  | commandFetchDone (d : DieId) (r : Option (List (List Byte)))
  /-- NOP (R186): Host command NOP completes with OK. -/
  | nop (d : DieId)
  /-- FENCE (R188): Host command FENCE starts waiting for earlier commands and writes in its SCOPE. -/
  | fence (d : DieId)
  /-- FENCE_DONE (R188): All covered writes are acknowledged (for HOST, by a zero-length read), and FENCE completes. -/
  | fenceDone (d : DieId)
  /-- WAIT_EVENT (R187): Host command WAIT_EVENT holds the ring until its event occurs. -/
  | waitEvent (d : DieId)
  /-- WAIT_EVENT_TIME_REACHED (R187): The Accord time named by a WAIT_EVENT is reached, and the command completes. -/
  | waitEventTimeReached (d : DieId)
  /-- WAIT_EVENT_TIMEOUT (R187): TIMEOUT_US expires first, and the WAIT_EVENT completes with TIMEOUT. -/
  | waitEventTimeout (d : DieId)
  /-- SET_FIELD (R151): Host command SET_FIELD MODE 0 orders a shared field under the ownership rules. -/
  | setField (d : DieId)
  /-- SET_FIELD_REGISTER (R186): Host command SET_FIELD MODE 1 performs a masked BAR0 register write. -/
  | setFieldRegister (d : DieId)
  /-- RTC_SET (R186): Host command SET_FIELD MODE 2 writes the keeper's real-time counter. -/
  | rtcSet (d : DieId)
  /-- TABLE_LOAD (R186): Host command TABLE_LOAD starts the TABLE engine copying a table from host memory to DRAM. -/
  | tableLoad (d : DieId)
  /-- TABLE_READ (R186): Host command TABLE_READ starts the TABLE engine copying a table from the die to the host. -/
  | tableRead (d : DieId)
  /-- TRIM_RUN (R350): Host command TRIM_RUN requests the masked trim kinds, with the IREF code. -/
  | trimRun (d : DieId)
  /-- SILLAGE_ENTER (R321): Host command SILLAGE_ENTER sets the host Sillage order to enter, with DEEP_OK. -/
  | sillageEnter (d : DieId)
  /-- SILLAGE_EXIT (R321): Host command SILLAGE_EXIT sets the host Sillage order to exit, or wakes a deep die. -/
  | sillageExit (d : DieId)
  /-- BLOTTER_ARM (R336): Host command BLOTTER_ARM arms a rectangle from the next frame start. -/
  | blotterArm (d : DieId)
  /-- BLOTTER_DISARM (R336): Host command BLOTTER_ARM with the disarm bit disarms a rectangle from the next frame start. -/
  | blotterDisarm (d : DieId)
  /-- STORE_WRITE (R360): Host command STORE_WRITE checks the target is erased and starts programming from host memory. -/
  | storeWrite (d : DieId)
  /-- STORE_READ (R360): Host command STORE_READ copies store bytes to host memory as an urgent read. -/
  | storeRead (d : DieId)
  /-- STORE_ERASE (R360): Host command STORE_ERASE erases whole blocks under the journal rule. -/
  | storeErase (d : DieId)
  /-- WEAR_EXPORT (R286): Host command WEAR_EXPORT writes the ledger snapshot to host memory. -/
  | wearExport (d : DieId)
  /-- WEAR_IMPORT (R286): Host command WEAR_IMPORT replaces or adds to the ledger counters and triggers a re-target pass. -/
  | wearImport (d : DieId)
  /-- ACCORD_SEND (R149): Host command ACCORD_SEND originates a CTRL parcel and completes with the wall's answer. -/
  | accordSend (d : DieId)
  /-- STATUS_SNAPSHOT (R386): Host command STATUS_SNAPSHOT captures every status register in one CCLK, optionally clearing
  the RC counters. -/
  | statusSnapshot (d : DieId)
  /-- DMA_ARM (R202): Host command DMA_ARM with action ARM loads a channel's options and first descriptor, and the channel
  enters ARMED. -/
  | dmaArm (d : DieId)
  /-- DMA_STOP (R202): Host command DMA_ARM with action STOP ends the channel after its current unit. -/
  | dmaStop (d : DieId)
  /-- DMA_ABORT (R202): Host command DMA_ARM with action ABORT stops issuing accesses and waits for those outstanding. -/
  | dmaAbort (d : DieId)
  /-- DMA_ABORT_DONE (R202): The last outstanding access of an aborted channel returns, and the ABORT completes. -/
  | dmaAbortDone (d : DieId) (ch : Chan) (a : AbortIo)
  /-- PANEL_ID_READ (R320): Host command PANEL_ID_READ copies bytes of the identity memory to the host. -/
  | panelIdRead (d : DieId)
  /-- DEFECT_SCAN (R278): Host command DEFECT_SCAN MODE 0 reads the drivers' open and short flags and lists the flagged
  lamps. -/
  | defectScan (d : DieId)
  /-- DEFECT_SCAN_INSERT (R278): Host command DEFECT_SCAN MODE 1 also inserts new flagged lamps into the defect table. -/
  | defectScanInsert (d : DieId)
  /-- BAD_OPCODE (R186): A command entry with an unknown opcode completes with BAD_OPCODE. -/
  | badOpcode (d : DieId)
  /-- ENGINE_DONE (R187): An engine command (table, store, wear, panel, trim or Accord) finishes, and its completion entry
  is written. -/
  | engineDone (d : DieId) (eng : Engine) (io : EngineIo)
  /-- IRQ_HOLDOFF_EXPIRY (R179): A vector's holdoff ends, and occurrences merged into it are sent as one MSI-X message. -/
  | irqHoldoffExpiry (d : DieId) (v : Fin 32)
  /-- HOST_LINK_DOWN (R195): A surprise down, PERST_L low, Hot Reset or link disable stops polling and DMA and resets HIF
  and DMA. -/
  | hostLinkDown (d : DieId) (cause : LinkDown)
  /-- PCIE_LINK_TRAIN (R368): With power good and PERST_L high, the endpoint trains its PCI Express link. -/
  | pcieLinkTrain (d : DieId) (cfg : PcieLink)
  /-- HIF_ENABLE (R197): HIF_CTRL.ENABLE is written 1; the ring indices restart, CVU-H keys empty and HOST_LINK_UP and the
  backlog are written. -/
  | hifEnable (d : DieId) (v : Word)
  /-- HIF_DISABLE (R197): HIF_CTRL.ENABLE is written 0; fetching stops after the command at the head. -/
  | hifDisable (d : DieId) (v : Word)
  /-- HIF_CFG_WRITE (R197): A write of an HIF base, ring size, poll or IRQ register is stored only while ENABLE is 0,
  otherwise it raises HIF_CFG_REFUSED. -/
  | hifCfgWrite (d : DieId) (off : BitVec 16) (v : Word)
  /-- D3HOT_ENTRY (R196): The function enters D3hot; polling, MSI-X and host DMA pause and events go to the backlog. -/
  | d3hotEntry (d : DieId)
  /-- D0_RETURN (R196): The function returns to D0, and the paused activities resume. -/
  | d0Return (d : DieId)
  /-- BAR_ACCESS_SIZE (R177): A BAR0 access of an unsupported size is dropped (write) or completes as Unsupported Request
  (read). -/
  | barAccessSize (d : DieId) (write : Bool) (off : BitVec 16) (v : Word)
  /-- HIF_STICKY_CLEAR (R377): A W1C write of HIF_STICKY clears bits, is copied to the status block and sends no vector. -/
  | hifStickyClear (d : DieId) (v : Word)
  /-- DMA_TRIGGER (R204): A timer fire or channel completion triggers a channel; a unit starts, or the trigger is held,
  overruns or finds the ring empty. -/
  | dmaTrigger (d : DieId) (ch : Chan)
  /-- DMA_DESC_FETCH_DONE (R200): A descriptor read completes and its transfer can run. -/
  | dmaDescFetchDone (d : DieId) (ch : Chan) (r : Option (List Byte))
  /-- DMA_HALF_DONE (R209): The writes of the first half of a descriptor have left the engine; HALF is written and the
  vector is sent. -/
  | dmaHalfDone (d : DieId) (ch : Chan) (io : DmaIo)
  /-- DMA_DESC_DONE (R208): The last write of a descriptor has left the engine; the write-back, interrupt, unit completion
  and triggers follow. -/
  | dmaDescDone (d : DieId) (ch : Chan) (io : DmaIo)
  /-- DMA_SETTLE_DONE (R211): Every write of a SETTLE descriptor is acknowledged, so it completes and counts as a layer
  fill. -/
  | dmaSettleDone (d : DieId) (ch : Chan)
  /-- FREE_TIMER_FIRE (R206): A free-running timer reaches PERIOD and fires, or fires once in ONESHOT. -/
  | freeTimerFire (d : DieId) (t : Fin 8)
  /-- DRAM_INIT_DONE (R223): DRAM initialisation and zeroing complete during BOOTING. -/
  | dramInitDone (d : DieId)
  /-- DRAM_INIT_RETRY (R223): After a failed DRAM initialisation, the die retries every 1 s. -/
  | dramInitRetry (d : DieId)
  /-- DRAM_SCRUB (R224): The scrubber reads the data words over its period and corrects single-bit errors. It has come as far as
  word address `upTo`. -/
  | dramScrub (d : DieId) (upTo : Nat) (met : ScrubMet)
  /-- CVU_SEL_WRITE (R230): A write of CVU_SEL stores the algorithms for each CVU from its next unit. -/
  | cvuSelWrite (d : DieId) (v : Word)
  /-- ALIVE_KEY_EXPIRE (R233): An alive key has had no accepted unit for 100 ms and becomes empty. -/
  | aliveKeyExpire (d : DieId) (key : AliveKey)
  /-- RUN_SET (R235): TMG_CTRL.RUN is written 1; it is stored if the raster is valid, the identity read starts and the
  echo frame becomes invalid. -/
  | runSet (d : DieId)
  /-- RUN_CLEAR (R235): TMG_CTRL.RUN is written 0; no frame starts and the frame timers are silent. -/
  | runClear (d : DieId)
  /-- TMG_RASTER_WRITE (R235): A write of TMG_ACTIVE or TMG_VTOTAL is stored only while RUN is 0. -/
  | tmgRasterWrite (d : DieId) (off : BitVec 16) (v : Word)
  /-- TMG_MODE_WRITE (R237): A write of TMG_MODE is stored if valid and applies from the next start decision. -/
  | tmgModeWrite (d : DieId) (v : Word)
  /-- NOMINAL_START (R241): A nominal start falls due on the lattice or a deadline, and a frame (or a repeat) is selected. -/
  | nominalStart (d : DieId)
  /-- FRAME_START (R242): The die starts the selected frame at the latest of the nominal start, the minimum period and
  settlement, or repeats at A + T_max. -/
  | frameStart (d : DieId)
  /-- LINE_START (R246): A line period begins; the line is processed and composed, and frame timers and underrun checks
  act. -/
  | lineStart (d : DieId) (obs : MemObs)
  /-- VBLANK_START (R246): Vertical blanking starts at line H. -/
  | vblankStart (d : DieId)
  /-- FRAME_END (R246): Frame end is reached at line H + 2; the Blotter compares and the trim window opens. -/
  | frameEnd (d : DieId)
  /-- TE_EDGE (R249): A TE edge is sampled and the TE period is updated; a takeover may take the scan at it. -/
  | teEdge (d : DieId)
  /-- TE_LOST (R249): No TE edge has arrived for TIMEOUT_US; TE_OK clears. -/
  | teLost (d : DieId)
  /-- LAYER_LATCH_CLEAR (R262): A W1C write of H_LATCH or T_LATCH lets the layer return at the next frame start. -/
  | layerLatchClear (d : DieId) (top : Bool)
  /-- IDENTITY_READ_DONE (R285): The panel identity record is read and the key compared; the ledger decode and map build
  follow, or unity correction on a mismatch. -/
  | identityReadDone (d : DieId) (r : IdRead)
  /-- COR_MAP_BUILD_DONE (R271): The build of the INUSE bank from the base map completes. -/
  | corMapBuildDone (d : DieId)
  /-- RETARGET_START (R272): The RTC enters FOLD_HOUR and a re-target pass starts building the idle bank. -/
  | retargetStart (d : DieId)
  /-- RETARGET_PASS_DONE (R272): The re-target pass finishes, and SWAP is due at the next frame start. -/
  | retargetPassDone (d : DieId)
  /-- WEAR_CHECKPOINT (R282): The RTC enters a new hour, and ledger part p is written to the store. -/
  | wearCheckpoint (d : DieId)
  /-- WEAR_CHECKPOINT_OVERDUE (R282): Every 5 minutes one overdue ledger part is written. -/
  | wearCheckpointOverdue (d : DieId)
  /-- WEAR_ENABLE (R281): WEAR_CFG.EN is written 1 and is refused while the wear strip overlaps the enabled staging area. -/
  | wearEnable (d : DieId) (v : Word)
  /-- WEAR_STRIP_WRITE (R281): A write of WEAR_STRIP is stored only while WEAR_CFG.EN is 0. -/
  | wearStripWrite (d : DieId) (v : Word)
  /-- ODD_CFG_WRITE (R299): A write of ODD_CFG stores its fields, and a DEPTH change is stored only while RUN is 0. -/
  | oddCfgWrite (d : DieId) (v : Word)
  /-- LDB_ENABLE (R317): LDB_CTRL.EN is written 1 and is stored only if every R317 condition holds. -/
  | ldbEnable (d : DieId)
  /-- LDB_DISABLE (R79): LDB_CTRL.EN is written 0; the formatter stops and the forwarded clocks go silent. -/
  | ldbDisable (d : DieId)
  /-- LDB_CFG_WRITE (R318): A write of LDB_CFG, LDB_LANES, LDB_SCAN or LDB_STAGE is stored whole only while EN is 0 and
  the scan words are valid. -/
  | ldbCfgWrite (d : DieId) (off : BitVec 16) (v : Word)
  /-- GS_WRITE_SEND (R305): Once its lamps are dithered, a GS_WRITE frame is sent into the frame's bank. -/
  | gsWriteSend (d : DieId) (lane : Fin 32) (row first nicM1 : Fin 64)
  /-- LATCH_SEND (R305): After the last GS_WRITE, and outside the 2 µs before a scan-cycle start, LATCH is sent on every
  lane. -/
  | latchSend (d : DieId)
  /-- ECHO_REPLY_RECEIVE (R310): A driver's echo reply is checked, alive-tested and decoded. -/
  | echoReplyReceive (d : DieId) (g : Group) (words : List (BitVec 16))
  /-- LDB_ECHO_TIMEOUT (R310): No reply SYNC has arrived 8 µs after the request; it is retried once. -/
  | ldbEchoTimeout (d : DieId) (g : Group)
  /-- SILLAGE_IDLE_TIMEOUT (R321): No frame has settled for IDLE_MS, so the IDLE cause is set. -/
  | sillageIdleTimeout (d : DieId)
  /-- SILLAGE_HANDOFF (R322): At the first frame end after a cause, the die sends HOLD, releases the scan lines, stops its
  clocks and enters SILLAGE-RELAY. -/
  | sillageHandoff (d : DieId)
  /-- SILLAGE_DEEP_ENTRY (R326): Deep is allowed and the module has been quiet for 100 ms; the die sets LEAVING, drains,
  self-refreshes and sleeps lanes 1–3. -/
  | sillageDeepEntry (d : DieId)
  /-- TAKEOVER_START (R331): All takeover conditions hold; the die starts DCLK and sends STATUS_READ to the scan master. -/
  | takeoverStart (d : DieId)
  /-- TAKEOVER_RETRY (R333): 100 ms after a failed takeover, the die tries again. -/
  | takeoverRetry (d : DieId)
  /-- TAKEOVER_UNALIGNED (R249): With TE lost, the die takes the scan at row 0 without alignment after TIMEOUT_US. -/
  | takeoverUnaligned (d : DieId)
  /-- DRYDOWN_FORWARD_END (R334): 32 ms after entering DRYDOWN, the die stops forwarding and serving. -/
  | drydownForwardEnd (d : DieId)
  /-- BLOTTER_FROZEN_CLEAR (R340): A W1C write of FROZEN ends the repeat at the next frame start. -/
  | blotterFrozenClear (d : DieId)
  /-- TRIM_STEP_DONE (R345): A trim step ends, its taps apply, and the kind or the run finishes. -/
  | trimStepDone (d : DieId) (r : TrimResult)
  /-- IREF_MEASURE_DONE (R349): The IREF measurement completes and the new taps are set. -/
  | irefMeasureDone (d : DieId) (inReach : Bool)
  /-- TRIM_AUTO (R351): The die temperature moves beyond DELTA, and the kind runs automatically. -/
  | trimAuto (d : DieId) (k : Fin 3)
  /-- TRIM_WAIT (R352): A kind has waited 1 s for its window or lanes. -/
  | trimWait (d : DieId) (k : Fin 3)
  /-- TRIM_START_TIMEOUT (R350): A requested kind cannot start within 10 s, so TRIM_RUN completes with BUSY. -/
  | trimStartTimeout (d : DieId)
  /-- STORE_READY (R362): The boot journal scan and repair finish, and the store becomes READY. -/
  | storeReady (d : DieId)
  /-- STORE_PROGRAM_DONE (R360): A store program and read-back complete; a LAST map record causes that copy to be
  validated. -/
  | storeProgramDone (d : DieId) (bad : Option Nat)
  /-- STORE_ERASE_DONE (R361): A block erase completes and verifies, and ERASE_DONE is journalled. -/
  | storeEraseDone (d : DieId) (ok : Bool)
  /-- STORE_ERASE_RESUME (R363): No urgent read has waited for 100 µs, or SUSPEND_MS has passed, so the erase resumes. -/
  | storeEraseResume (d : DieId)
  /-- STORE_REFRESH_START (R364): Four years have passed since the last refresh, and a retention refresh starts. -/
  | storeRefreshStart (d : DieId)
  /-- BOOT_COMPLETE (R367): Self-initialisation is done and 200 ms have passed; BOOT_DONE is set and the die enters
  ACTIVE. -/
  | bootComplete (d : DieId)
  /-- SYS_SEAL_WRITE (R373): A write of 0x5EA1 to SYS_SEAL freezes every RWS field until die reset. -/
  | sysSealWrite (d : DieId) (v : Word)
  /-- LO_READ_LATCH (R385): A read of a 64-bit pair's LO register returns the low word and latches the high word. -/
  | loReadLatch (d : DieId) (off : BitVec 16)
  /-- RC_COUNTER_READ (R379): A read of an RC register returns its value and clears it. -/
  | rcCounterRead (d : DieId) (off : BitVec 16)
  /-- REGISTER_WRITE (R387): A BAR0 write to a register without a row of its own is applied in the next CCLK under its
  access code. -/
  | registerWrite (d : DieId) (off : BitVec 16) (v : Word) (be : BitVec 4)
  /-- SEGMENT_BOUNDARY (R311): At each GCLK segment boundary a row slot starts: while the die owns the scan, ROW_OE goes
  low, ROW_ADDR changes ADDR_DLY cycles later and ROW_OE goes high OFF_GCLK cycles after the start; a pending segment
  length takes effect there. -/
  | segmentBoundary (d : DieId)
  /-- THERMAL_WARN_END (R64): The baseplate reference point falls back to 95 °C or below, ending THERMAL_WARN, so FAULT_L
  is released when it was driven only under FAULT_L_ON_WARN. -/
  | thermalWarnEnd (base : BitVec 16)
  /-- GCLK_START_RETRY (R333): During a takeover whose GCLK start failed to lock, the die retries the GCLK start every 1
  s. -/
  | gclkStartRetry (d : DieId)
  /-- SMBUS_CLOCK_LOW_TIMEOUT (R62): SMB_CLK has been held low for the 25–35 ms timeout; the keeper abandons the
  transaction. -/
  | smbusClockLowTimeout
  /-- DRYDOWN_COMPLETE (R60): Both dies have finished Drydown; the keeper opens the input switch and the module enters
  DORMANT. -/
  | drydownComplete
deriving DecidableEq, Repr

end Sys2Proof
end

