-- ==== Sys2Proof/WellFormed.lean ====
section
/-! DEFINITION. Which operands a command can come with: the lengths and ranges that its sender or its surroundings can
produce. The meanings are total and do not consult this; statements may. -/

namespace Sys2Proof

/-- Whether every address of a list is that of a 32-byte memory word (R214). -/
def wordAligned (as : List Nat) : Bool := as.all fun a => a % 32 == 0

/-- Whether a command's operands are such as can occur. -/
def Instr.wellFormed : Instr → Bool
  | .doorbellReadDone _ (some bs) => bs.length == 64
  | .commandFetchDone _ (some es) => 1 ≤ es.length && es.length ≤ 8 && es.all fun e => e.length == 64
  | .dmaDescFetchDone _ _ (some bs) => bs.length == 32
  | .identityReadDone _ (.record bs) => bs.length == 256
  | .lineStart _ o => wordAligned o.ce && wordAligned o.ue && wordAligned o.sue && wordAligned o.late
  | .dramScrub _ upTo met => upTo % 32 == 0 && wordAligned met.ce && wordAligned met.ue
  | .stitchTimeReceive _ _ m => match m.msg.sync with | some y => y.corr < 2 ^ 64 | none => true
  | .stitchLockReceive _ _ m => m.frame < 2 ^ 48
  | .stitchBlotterReceive _ _ m => m.frame < 2 ^ 48
  | _ => true

end Sys2Proof
end

