-- ==== Sys2Proof/Decode.lean ====
section
/-! DEFINITION. The opcode table gives none of its rows any bits (the commands reach the block as events, register
accesses and ring entries, not as words of one encoding), so no word spells a command. The bytes that host commands,
parcels and wall commands do have are read in Machine/Operands.lean. -/

namespace Sys2Proof

/-- The command that a word spells by the table's bits: none, since no row has bits. (DESIGN CHOICE, assumption 3). -/
def decodeTableWord (_nbits _w : Nat) : Option Instr := none

end Sys2Proof
end

