-- ==== Sys2Proof/Config.lean ====
section
/-! DEFINITION. What one part fixes for itself, and the values that the spec leaves open. Every constant of this file has
no body that a proof can see: a claim holds whatever its value is. -/

namespace Sys2Proof

/-- UNVERIFIED, free: whether the part is of hardware revision 0x03 and not 0x02 (R396 lists both). -/
opaque Config.revision3 : Bool

/-- UNVERIFIED, free: whether the part is the LQ-4816-K and not the LQ-4816-A (R1, R395). -/
opaque Config.variantK : Bool

/-- UNVERIFIED, free: the ten digits YYWWNNNNNN of the part's serial, digit `i` from the left (R394); taken modulo 10. -/
opaque Config.serialDigit : Nat → Nat

/-- A byte that the spec does not give: the `n`-th such byte met, `n` counted in `Die.free`. -/
opaque Config.freeByte : Nat → BitVec 8

/-- A number that the spec gives a bound for or leaves to the part: the `n`-th one met. -/
opaque Config.freeNat : Nat → Nat

/-- Whether the keeper lights STAT_LED, at a count of its real-time counter (R35 names the contact; no rule says what it shows). -/
opaque Config.statLed : Nat → Bool

/-- What the spec lays out by field and not by byte in a stitch message (R167): the bytes of the payload, and for LOCK of its
readiness flags, from the CLASS and the fields. -/
opaque Config.stiPayload : Nat → List Nat → List (BitVec 8)

end Sys2Proof
end

