-- ==== Sys2Proof/Machine/State.lean ====
section
/-! DEFINITION. The state of one LQ-4816 module: the keeper and input stage, two dies, and the queue of commands that
wait. Everything is plain data. A die's registers are one sparse map from BAR0 offset to word; what the spec gives the
machine beside registers stands in one structure per block. -/

namespace Sys2Proof.Machine

/-- A field of a BAR0 register: register offset, lowest bit, width in bits. -/
structure F where
  off   : Nat
  lo    : Nat
  width : Nat
deriving DecidableEq, Repr

/-- Why a step stops with a fault. The spec stops the module for none of its commands (assumption 1), so no meaning raises
this; it is here for a state that no command reaches. -/
inductive Fault where
  /-- Raised by no meaning; safe, since the machine would only stop. -/
  | unreachable
deriving DecidableEq, Repr

/-- Why a command is refused. -/
inductive Refusal where
  /-- Raised by an arm of `exec` whose command has no meaning yet; safe, since nothing is claimed of it. -/
  | notModelled (mnemonic : String)
deriving DecidableEq, Repr

/-- Power states of the module as a whole (R54, R55). `on` stands for BOOTING, ACTIVE, SILLAGE-RELAY, SILLAGE-DEEP and
DRYDOWN, which each die holds on its own. -/
inductive Phase where
  | off
  | inserting
  | dormant
  | on
  | faultHold
deriving DecidableEq, Repr

/-- Power states that a die holds on its own while it is powered (R54). -/
inductive Power where
  | booting
  | active
  | relay
  | deep
  | drydown
deriving DecidableEq, Repr

/-- Faults that lead to FAULT-HOLD (R55, R58, R59). -/
inductive FaultCause where
  | thermal
  | inrush
  | rail
deriving DecidableEq, Repr

/-- What a command has put on the contacts. The model's own record (assumption 4): the outputs of the last command only. -/
inductive Out where
  /-- Bytes that the keeper returns in an SMBus read (R63), its PEC byte last where the master clocks one more. -/
  | smbus (bytes : List Byte)
  /-- The keeper does not acknowledge (R62, R63). -/
  | smbusNack
  /-- The keeper acknowledges a write. -/
  | smbusAck
  /-- The keeper writes its non-volatile record (R48, R65). -/
  | nvWrite
  /-- A posted memory write to the host; `ro` is the Relaxed Ordering attribute (R178). -/
  | hostWrite (addr : Nat) (bytes : List Byte) (ro : Bool) (poisoned : Bool)
  /-- A memory read request to the host. -/
  | hostRead (addr len : Nat)
  /-- One MSI-X message (R179). -/
  | msix (vector : Nat) (addr : Nat) (data : Word)
  /-- Data of a BAR0 read. -/
  | barRead (v : Word)
  /-- A BAR0 read that completes as Unsupported Request (R177). -/
  | barUnsupported
  /-- One stripe or CC slot as the four out-lanes send it: sync header in bits 65 and 64, scrambled payload below. -/
  | blocks (b0 b1 b2 b3 : BitVec 66)
  /-- A training block on out-lane `lane` (R93): its payload before scrambling, and the block as sent (R106). -/
  | ts (lane : Nat) (payload : BitVec 64) (sent : BitVec 66)
  /-- A whole parcel that leaves through this die's port (R114). -/
  | parcel (bytes : List Byte)
  /-- Stitch messages, each with its header, alive counter and check value (R166, R167). -/
  | stiLock (h : StiHead) (m : StiLock)
  | stiTime (h : StiHead) (m : StiTime)
  | stiParcel (h : StiHead) (m : StiParcel)
  | stiStatus (h : StiHead) (m : StiStatus)
  | stiBlotter (h : StiHead) (m : StiBlotter)
  /-- An LDB frame on one lane: its words from SYNC to CHECK (R302). -/
  | ldb (lane : Nat) (words : List (BitVec 16))
  /-- IDLE words before a frame (R300, R324, R332). -/
  | ldbIdle (lane n : Nat)
  /-- The LDB frame under way is cut short (R324). -/
  | ldbCut
  /-- ROW_ADDR and ROW_OE driven (R311, R316, R332). -/
  | row (addr : Nat) (oe : Bool)
  /-- ROW_ADDR and ROW_OE released to high-impedance (R322). -/
  | rowRelease
  /-- A read on the PID bus (R319, R320): the 7-bit device address, whether at 400 kHz, the memory address and the bytes. -/
  | pidRead (device : Nat) (fast : Bool) (offset n : Nat)
  /-- IREF is set from this code and the trimmed taps (R43, R349). -/
  | iref (code : Nat)
deriving DecidableEq, Repr

/-- The keeper's non-volatile record (R48, R65). -/
structure NvRecord where
  /-- The counter as last saved (R65). -/
  rtc     : BitVec 48
  /-- Undervoltage trips (R48, R365). -/
  uv      : BitVec 32
  /-- Overvoltage trips (R48, R365). -/
  ov      : BitVec 32
  /-- Last-off cause (R48, R60). -/
  lastOff : BitVec 4
deriving DecidableEq, Repr

/-- The input stage, the keeper and the contacts of the module as a whole (chapters 02 and 03). -/
structure Module where
  /-- Power state of the module (R55). -/
  phase : Phase
  /-- Whether the input switch is closed (R49). -/
  sw : Bool
  /-- Whether the dies' converters have been started since the switch closed (R50). -/
  conv : Bool
  /-- Whether every converter has reached power good since the switch closed (R59). -/
  good : Bool
  /-- Whether the dies run: from power good until the bulk capacitance is depleted (R52). -/
  diesUp : Bool
  /-- PRESENT_L closed (R27). -/
  present : Bool
  /-- MOD_EN as the keeper reads it (R35, R57). -/
  modEn : Bool
  /-- MOD_EN has fallen since FAULT-HOLD was entered (R58). -/
  modEnFell : Bool
  /-- EJECT_L closed after its 1 ms filter (R36). -/
  ejectClosed : Bool
  /-- MFR_DORMANT_HOLD (R56). -/
  hold : Bool
  /-- MADDR[2:0] as read when the keeper left OFF (R35). -/
  maddr : BitVec 3
  /-- Real-time counter (R65). -/
  rtc : BitVec 48
  /-- Undervoltage trip count (R49, R365). -/
  uv : BitVec 32
  /-- Overvoltage trip count (R49, R365). -/
  ov : BitVec 32
  /-- Last-off cause, coded as PWR_STATE.LAST_OFF (R60, R365). -/
  lastOff : BitVec 4
  /-- The keeper's non-volatile record (R48, R65). -/
  nv : NvRecord
  /-- The fault that holds the module in FAULT-HOLD (R58). -/
  fault : Option FaultCause
  /-- RTC ticks since the input switch last opened (R58). -/
  cool : Nat
  /-- The Drydown that is under way and the cause that it records (R60). -/
  drydown : Option (BitVec 4)
  /-- STATUS_INPUT (R63). -/
  stInput : BitVec 8
  /-- STATUS_TEMPERATURE (R63). -/
  stTemp : BitVec 8
  /-- STATUS_CML (R63). -/
  stCml : BitVec 8
  /-- STATUS_MFR_SPECIFIC (R63). -/
  stMfr : BitVec 8
  /-- SMB_ALERT_L low (R64). -/
  alert : Bool
  /-- THERMAL_WARN stands (R45, R64). -/
  warn : Bool
  /-- The last readings (R63): PWR_VIN, PWR_TEMP, READ_*. -/
  meas : Meas
  /-- What the last module command put on the contacts. -/
  out : List Out
deriving DecidableEq, Repr

/-- Whether the dies do anything: they are powered, and the module is in none of the states in which every output of a die is
high-impedance and no die moves between states (R24, R33, R55). After an opening of the input switch, dies that the bulk
capacitance still holds up have made their hand-off and do nothing more. (DEDUCED, assumption 5). -/
def Module.runs (m : Module) : Bool := m.diesUp && m.phase == .on

/-- The keeper's copy of one die's PWR_CFG and PWR_STATUS (R68), kept through die reset but for the bits of PWR_STATUS
that belong to the die. -/
structure Keep where
  /-- PWR_CFG (R68). -/
  cfg    : BitVec 2
  /-- PWR_STATUS bits that the keeper holds (R68). -/
  status : BitVec 7
deriving DecidableEq, Repr

/-- A host command as its completion names it (R184, R189). -/
structure Cmd where
  opcode : Byte
  irq    : Bool
  tag    : List Byte
  index  : BitVec 16
deriving DecidableEq, Repr

/-- A completion that is finished and waits for ring space (R191). -/
structure Done where
  cmd    : Cmd
  status : Nat
  detail : Nat
deriving DecidableEq, Repr

/-- An event as its ring entry holds it (R192), before ESEQ and PHASE. -/
structure Event where
  code   : Nat
  time   : Nat
  detail : Nat
deriving DecidableEq, Repr

/-- A command entry fetched and not yet started (R183, R185). `bad`: CVU-H or CVU_REQ refuses it. -/
structure Fetched where
  index : BitVec 16
  bytes : List Byte
  bad   : Bool
deriving DecidableEq, Repr

/-- A WAIT_EVENT that holds the ring (R187). -/
structure Wait where
  cmd  : Cmd
  kind : Nat
  sel  : Nat
  time : Nat
  /-- TIMEOUT_US, 0 for none. -/
  timeout : Nat
deriving DecidableEq, Repr

/-- What one engine command carries while its engine works (R186, R187). `args` are bytes 8–59 of its entry. After a link loss
the command is no longer `live`: its engine works on, and no completion and no result goes to the host (R195). -/
structure Job where
  cmd  : Cmd
  args : List Byte
  live : Bool
deriving DecidableEq, Repr

/-- The host interface beside its registers (chapter 10). -/
structure Hif where
  /-- CMP_TAIL (R181, R191). -/
  cmpTail : BitVec 16
  /-- The host's completion head as last read (R180). -/
  cmpHead : BitVec 16
  /-- EVT_TAIL (R181, R192). -/
  evtTail : BitVec 16
  /-- The host's event head as last read (R180). -/
  evtHead : BitVec 16
  /-- Working tail of the command ring (R183). -/
  tail : BitVec 16
  /-- A doorbell read is outstanding (R182). -/
  polling : Bool
  /-- Entries asked for by the command read that is outstanding (R183). -/
  fetching : Nat
  /-- Fast polls left (R182). -/
  fast : Nat
  /-- Failed doorbell reads in a row (R194). -/
  fails : Nat
  /-- Failed ring reads in a row (R194). -/
  ringFails : Nat
  /-- A ring read has failed, and is repeated at the next poll (R194). -/
  readHeld : Bool
  /-- Commands fetched and not started, oldest first (R183, R187). -/
  fetched : List Fetched
  /-- The WAIT_EVENT that holds the ring (R187). -/
  wait : Option Wait
  /-- The FENCE that holds the ring (R188). -/
  fence : Option Job
  /-- Finished commands whose completion waits for space (R191). -/
  held : List Done
  /-- CMP_RING_STALL has been raised for this stall (R191). -/
  stalled : Bool
  /-- The TABLE_LOAD or TABLE_READ under way (R186). -/
  table : Option Job
  /-- The TRIM_RUN under way (R350). -/
  trim : Option Job
  /-- The STORE command under way (R360). -/
  store : Option Job
  /-- The WEAR command under way (R286). -/
  wear : Option Job
  /-- The LANE_SERVICE under way (R102). -/
  service : Option Job
  /-- The EYE_SCAN under way (R104). -/
  scan : Option Job
  /-- The PANEL_ID_READ or DEFECT_SCAN under way (R278, R320). -/
  panel : Option Job
  /-- Accord time when the eye scan under way began (R104). -/
  scanTime : Nat
  /-- Events go to the backlog: from die reset or link loss until HIF_ENABLE (R195, R369). -/
  logging : Bool
  /-- The link has gone down since the last HIF_ENABLE, so HOST_LINK_UP is due (R195). -/
  linkLost : Bool
  /-- In D3hot (R196). -/
  d3hot : Bool
  /-- The 64-entry backlog, oldest first (R195, R369). -/
  backlog : List Event
  /-- Events lost from the backlog (R195). -/
  logLost : Nat
  /-- Events not written since EVENTS_LOST was last raised (R192). -/
  lost : Nat
  /-- Status-block ALIVE (R181). -/
  sbAlive : BitVec 16
  /-- A poll has found work, so the status block is due (R181). -/
  sbDue : Bool
  /-- Events raised by this command (R375, R376): code, detail, and whether the rate limit lets an entry be written. -/
  raised : List (Nat × Nat × Bool)
  /-- Vectors asked for by this command, in order (R179). -/
  vecs : List Nat
  /-- Vectors inside their holdoff, and whether an occurrence has merged (R179). -/
  holdoff : List (Nat × Bool)
  /-- MSI-X table words, by word index (R179, R388). -/
  msix : List (Nat × Word)
  /-- MSI-X pending bits (R179, R388). -/
  pba : Nat
  /-- The link as trained and programmed (R176). -/
  link : PcieLink
  /-- Heart and Top are kept off until HIF_ENABLE (R195). -/
  layersOff : Bool
deriving DecidableEq, Repr

/-- How far a GCLK request has come (R83, R85, R86). -/
inductive GclkPhase where
  | none
  /-- Held until CCLK locks (R86). -/
  | held
  | locking (retried : Bool)
  | settling
  | waiting
deriving DecidableEq, Repr

/-- CLK beside its registers (chapter 04). -/
structure Clk where
  /-- How far the GCLK request has come (R83). -/
  phase  : GclkPhase
  /-- Frequency word asked for (R82, R83). -/
  target : Nat
  /-- The host command that made the request (R82, R187). -/
  cmd    : Option Cmd
  /-- SEG_LOG2 in force: CLK_GCLK_SEG applies at the next boundary (R83). -/
  seg : Nat
  /-- Die E follows die W's forwarded CCLK (R78). -/
  follow : Bool
  /-- REFCLK valid again and the PLL slewing back to lock (R77). -/
  slewing : Bool
  /-- Quodo transmitters off (R76). -/
  txOff : Bool
  /-- BOOT_REFCLK_TIMEOUT has raised REFCLK_LOST (R70). -/
  bootLost : Bool
deriving DecidableEq, Repr

/-- The tap search of one in-lane (R97): the points still to measure, and the best so far as (height, width, PRE, POST). -/
structure TapSearch where
  /-- Part of the search (R97). -/
  stage : Nat
  /-- Point to measure next. -/
  next  : Nat
  /-- Best point so far. -/
  best  : Option (Nat × Nat × Nat × Nat)
  /-- The best setting (PRE, POST) when this part of the search began. -/
  base  : Nat × Nat
deriving DecidableEq, Repr

/-- One in-lane and its partner out-lane, beside their registers (chapter 05). -/
structure LaneState where
  /-- Failed attempts in a row (R100). -/
  failRun : Nat
  /-- Retrying from FAILED, when no training event is raised (R100). -/
  retrying : Bool
  /-- Good TS blocks in a row that show this lane's RX_READY bit (R98). -/
  readyRun : Nat
  /-- VERIFY has passed (R98). -/
  verified : Bool
  /-- This training runs in a port training; otherwise in a single-lane retrain (R96, R99). -/
  port : Bool
  /-- The tap search under way (R97). -/
  search : Option TapSearch
  /-- The last VERIFY followed a TAP_TUNE (R105). -/
  tuned : Bool
  /-- The previous VERIFY failed (R97). -/
  verifyFailed : Bool
  /-- RETRAIN_REQ[k] in the LS blocks that this die sends (R94, R99). -/
  retrainReq : Bool
  /-- SERVICE_REQ[k] in the LS blocks that this die sends: pattern and inversion (R94, R102). -/
  serviceReq : Option (Nat × Bool)
  /-- A retrain is under way whose end raises LANE_RETRAIN_DONE (R99). -/
  retrained : Bool
  /-- Slipped since the last CC slot (R110); a trim step holds the lane out of traffic (R348). -/
  slipped : Bool
  /-- MARGIN_LOW raised and not re-armed (R105). -/
  lowRaised : Bool
  /-- MARGIN_TREND raised and not re-armed (R105). -/
  trendRaised : Bool
  /-- PRBS that the partner has asked of out-lane k: pattern and inversion (R94, R103). -/
  outPrbs : Option (Nat × Bool)
  /-- Out-lane k carries TS blocks (R93). -/
  outTs : Bool
  /-- Out-lane k returns to traffic at the next CC slot that this die sends (R98). -/
  outJoin : Bool
  /-- The checker has reached sync since the service began, or PRBS_NO_SYNC has been raised for it (R103). -/
  prbsTried : Bool
  /-- SEQ of the next TS on out-lane k (R93). -/
  tsSeq : Byte
  /-- Descrambler of the input with this number, before order and polarity are corrected: the last 58 bits received (R91,
  R106). -/
  rxScr : BitVec 58
  /-- Scrambler: the last 58 bits sent on out-lane k (R106). -/
  txScr : BitVec 58
  /-- The partner has requested taps for out-lane k since ENABLE was set (QPHY_TX_INIT). -/
  tapReq : Bool
  /-- This retrain runs without TAP_TUNE, as after SILLAGE-DEEP (R101). -/
  noTune : Bool
  /-- Taps that this die asks of the partner's out-lane k (R97). -/
  req : Option (Nat × Nat)
  /-- Last 31 bits of the PRBS that out-lane k sends (R103). -/
  prbs : BitVec 31
deriving DecidableEq, Repr

/-- QPHY beside its registers. -/
structure Qphy where
  /-- The four lanes (R88). -/
  lanes : Vector LaneState 4
  /-- LANE_ORDER has been raised for this training (R91). -/
  orderRaised : Bool
  /-- LS content as last sent (R94). -/
  lsLast : Nat
  /-- Slots since the LS content changed (R94). -/
  lsAge : Nat
  /-- Slots since the last LS (R94). -/
  lsSkip : Nat
deriving DecidableEq, Repr

/-- The parcel that the receiver is inside (R118). -/
inductive RxOpen where
  | none
  /-- Blocks of a parcel of known length: bytes so far, blocks left, a block lost. -/
  | known (bytes : List Byte) (left : Nat) (lost : Bool)
  /-- The first data block is still to come. -/
  | header (bytes : List Byte) (lost : Bool)
  /-- Open with LEN lost: blocks taken. -/
  | open (bytes : List Byte) (taken : Nat)
  /-- Skipping an oversize parcel's blocks. -/
  | skip (left : Nat)
deriving DecidableEq, Repr

/-- A parcel that this module originates on this port, before its alive counter and check are added (R117). -/
structure TxLocal where
  bytes : List Byte
  auth  : Bool
deriving DecidableEq, Repr

/-- A CTRL command that this die has originated and that is not done (R127, R149). -/
structure Outstanding where
  /-- Module asked. -/
  dst   : Byte
  /-- SEQ of the parcel (R123). -/
  seq   : BitVec 16
  /-- Header and payload without tag. -/
  bytes : List Byte
  /-- It carries a tag (R152). -/
  auth  : Bool
  /-- Die W still has to answer. -/
  needW : Bool
  /-- Die E still has to answer. -/
  needE : Bool
  /-- NAK of die W: it stands over die E's (R190). -/
  nakW  : Option Nat
  /-- NAK of die E. -/
  nakE  : Option Nat
  /-- Retransmissions since the last fresh start (R127). -/
  retx  : Nat
  /-- Transmissions in all (R127). -/
  sent  : Nat
  /-- Repeats after NAK_BUSY (R124, R127). -/
  busy  : Nat
  /-- Repeated after NAK_STALE (R127). -/
  stale : Bool
  /-- HIGH of the NAK_STALE received (R127, R149). -/
  high  : Option (BitVec 16)
  /-- MISSING declared; only the destination's mark is left. -/
  missing : Bool
  /-- The ACCORD_SEND that asked (R190). -/
  cmd   : Option Cmd
deriving DecidableEq, Repr

/-- A receive window (R124, R153). -/
structure Window where
  /-- Origin module. -/
  src  : Byte
  /-- Origin die. -/
  odie : Bool
  /-- Destination of the parcels. -/
  dst  : Byte
  /-- Highest SEQ seen. -/
  high : BitVec 16
  /-- SEQs seen below it. -/
  map  : BitVec 32
  /-- Alive counter of the last authentic parcel on the own port (R153). -/
  aliveOwn : Option (BitVec 16)
  /-- Alive counter of the last authentic parcel by the other die's port (R153). -/
  aliveFar : Option (BitVec 16)
deriving DecidableEq, Repr

/-- A wall command that is queued or deferred (R146, R149). -/
structure WallCmd where
  /-- Origin module. -/
  src   : Byte
  /-- Origin die. -/
  odie  : Bool
  /-- SEQ of the command (R146). -/
  seq   : BitVec 16
  /-- It came by the other die's port (R168). -/
  far   : Bool
  /-- Payload without tag. -/
  bytes : List Byte
deriving DecidableEq, Repr

/-- Parcels beside their registers (chapter 06). -/
structure Pcl where
  /-- The parcel under way in the receiver (R118). -/
  rx : RxOpen
  /-- CVU-L's algorithm for the parcel under way (R231). -/
  rxSel : Nat
  /-- Parcels whole in the receiver, still to be taken, each with its algorithm (R114, R118, R231). -/
  rxDone : List (RxParcel × Nat)
  /-- Place in the stripe count of the receiver (R108). -/
  rxStripe : Nat
  /-- Place in the stripe count of the sender (R108). -/
  txStripe : Nat
  /-- Forward queue of this die's port, parcels whole (R119). -/
  fwdQ : List (List Byte)
  /-- Local queue of this die's port, but for TIME (R119). -/
  locQ : List TxLocal
  /-- TIME parcels to send, which go first (R119, R130). -/
  timeQ : List TxLocal
  /-- Whose turn it is at the next boundary: a local parcel's (R119). -/
  localTurn : Bool
  /-- Transmit alive counters, by 2 × TYPE + next-hop class (R117, R232). -/
  txAlive : List (Nat × BitVec 16)
  /-- Receive alive keys and their LAST (R233). -/
  rxAlive : List (AliveKey × BitVec 16)
  /-- Receive windows (R124). -/
  windows : List Window
  /-- SEQ of the next CTRL parcel, by destination (R123). -/
  seqs : List (Nat × BitVec 16)
  /-- CTRL commands originated and not done (R127). -/
  outstanding : List Outstanding
  /-- Destinations declared MISSING (R127). -/
  missing : List Byte
  /-- Wall commands queued, oldest first (R149). -/
  wallQ : List WallCmd
  /-- Wall commands deferred to a frame start (R149). -/
  deferred : List WallCmd
  /-- SEQ of the last command executed, by origin (2 × SRC + ODIE) (R148). -/
  lastSeq : List (Nat × BitVec 16)
  /-- Slices held since the last STAT (R128). -/
  heldSince : Nat
  /-- The port has carried traffic since ENABLE was set (R112). -/
  carried : Bool
  /-- A stripe has lost two blocks since the last CC slot (R112). -/
  badStripe : Bool
  /-- CC_SLOT_MISSING has been raised since the last CC slot (R109). -/
  ccMissing : Bool
  /-- CCLK count when a parcel other than this die's own TIME last left the port (R326). -/
  lastSent : Option Nat
deriving DecidableEq, Repr

/-- A presentation deadline received (R144). -/
structure Deadline where
  /-- Frame number F. -/
  frame : Nat
  /-- P(F). -/
  time  : Nat
  /-- P(F − 1), or P(F) again where no deadline was issued for F − 1 (R132). -/
  prev  : Nat
deriving DecidableEq, Repr

/-- Accord beside its registers (chapter 07). Times are in units of 2^-32 ns unless said otherwise. -/
structure Acd where
  /-- Accord time (R137). -/
  time : Nat
  /-- The rate's deviation `a` in units of 2^-32 (R137). -/
  rate : Int
  /-- LINK_SEQ of the next SYNC (R131, R135). -/
  linkSeq : Byte
  /-- LINK_SEQ of the last SYNC received (R135). -/
  echoSeq : Byte
  /-- Arrival time of the last SYNC received (R135). -/
  echoAt : Nat
  /-- Departure times of the last 4 LINK_SEQ values, newest first. -/
  departs : List (Byte × Nat)
  /-- The last exchanges, newest first, in 1/16 ns (R135). -/
  exchanges : List Int
  /-- Hops to end A through the own port (R134). -/
  ownA : Byte
  /-- Hops to end B through the own port. -/
  ownB : Byte
  /-- Hops to end A through the other die's port. -/
  farA : Byte
  /-- Hops to end B through the other die's port. -/
  farB : Byte
  /-- SYNC_SEQ of the sync followed or last originated (R131, R138). -/
  syncSeq : BitVec 16
  /-- A usable sync has been taken since joining began (R141). -/
  synced : Bool
  /-- Master time and CCLK count of the last syncs, newest first (R137). -/
  rates : List (Nat × Nat)
  /-- The rate estimated from them, in units of 2^-32 (R137). -/
  est : Int
  /-- Syncs for which the estimate has held still (R137). -/
  steady : Nat
  /-- Consecutive syncs in LOCK within ±50 ns (R141). -/
  inLimit : Nat
  /-- The step has been made (R141). -/
  stepped : Bool
  /-- The die has had a time base: stepped in LOCK or claimed. -/
  based : Bool
  /-- Distance from the master by the copies at the own port (R169). -/
  ownDist : Byte
  /-- Distance from the master by the copies over the stitch (R169). -/
  farDist : Byte
  /-- CCLK of the last sync taken on the own port. -/
  ownAt : Option Nat
  /-- CCLK of the last sync taken over the stitch. -/
  farAt : Option Nat
  /-- CCLK of the last sync from the current master (R139). -/
  masterAt : Option Nat
  /-- The other die claims with this module's address (R138). -/
  peerClaims : Bool
  /-- The role has yielded to a better claim (R138). -/
  yielded : Bool
  /-- ACCORD_NO_MASTER stands (R140). -/
  noMaster : Bool
  /-- Last frame stamped, by this die or by the master whose deadline it took, and its P (R132, R143). -/
  stamped : Option Deadline
  /-- The DEADLINE parcels still to repeat, oldest first (R130, R143). -/
  repeatDl : List (List Byte)
  /-- The highest frame number of a FRAME_DONE received (R143). -/
  doneSeen : Option Nat
  /-- After a takeover: no frame is stamped until the next FRAME_DONE (R139). -/
  awaitDone : Bool
  /-- Deadlines received and not forgotten (R144, R244). -/
  deadlines : List Deadline
  /-- The highest VIDEO frame number received (R143). -/
  videoSeen : Option Nat
  /-- The neighbour has set LEAVING (R142). -/
  nbrLeaving : Bool
  /-- This die sets LEAVING (R142, R327). -/
  leaving : Bool
  /-- The host's order on BLANK (R151, R248). -/
  hostBlank : Bool
  /-- The wall's order on BLANK (R151, R248). -/
  wallBlank : Bool
  /-- The host's order on SILLAGE (R151, R321). -/
  hostSil : Bool
  /-- The wall's order on SILLAGE (R151, R321). -/
  wallSil : Bool
  /-- FREEZE as applied (R248). -/
  freeze : Bool
  /-- SEQ of the last wall order on each field (R151). -/
  wallSeqs : List (Nat × BitVec 16)
deriving DecidableEq, Repr

/-- The stitch beside its registers (chapter 09). -/
structure Sti where
  /-- Consecutive good STATUS messages received (R171). -/
  good : Nat
  /-- Failing messages in a row (R171). -/
  failRun : Nat
  /-- The other die's last STATUS message (R166). -/
  peer : Option StiStatus
  /-- The other die's power state as last reported by the keeper (R171). -/
  peerBooted : Bool
  /-- The newest frame that the other die has reported as settled (R169). -/
  peerSettled : Option Nat
  /-- Alive counters by CLASS (R166). -/
  txAlive : List (Nat × BitVec 16)
  /-- The hold interval runs (R174). -/
  holdRuns : Bool
  /-- The hold interval has expired (R174). -/
  holdExpired : Bool
  /-- CCLK since which the stitch has been UP (R174). -/
  upAt : Nat
  /-- Starts in a row within ±1 CCLK (R170). -/
  lockRun : Nat
  /-- A start that the leader has announced (R169). -/
  start : Option StiLock
  /-- REFCLK is held with the stitch down (R78). -/
  barred : Bool
  /-- A wake to report in the next STATUS message (R329). -/
  woke : Bool
  /-- CCLK counts at which the crossings of the PARCEL messages sent end, oldest first (R168, R171). -/
  crossing : List Nat
  /-- The IDLE cause came to stand while the die was cut off (R174, R175). -/
  idleCut : Bool
  /-- The frame period in use when the stitch last went DOWN, in 1/18 ns; 0 before two starts (R174). -/
  holdPeriod : Nat
deriving DecidableEq, Repr

/-- What a channel was armed with, and its descriptor under way (chapter 11). -/
structure Channel where
  /-- Options of DMA_ARM (R202). -/
  options : BitVec 32
  /-- Address of the first descriptor (R202). -/
  first   : Nat
  /-- Address of the current descriptor, in full. -/
  addr    : Nat
  /-- Descriptor bytes held. -/
  desc    : Option (List Byte)
  /-- The unit started at or after the current frame start (R258). -/
  fresh   : Bool
  /-- Bytes of the descriptor moved before HALF was reported. -/
  half    : Option Nat
  /-- Its writes are done and acknowledgements are outstanding (R211). -/
  settling : Bool
  /-- Empty triggers have raised DMA_RING_EMPTY (R204). -/
  emptyRun : Bool
  /-- The ABORT that waits (R202). -/
  abort   : Option Cmd
  /-- The fetch of the descriptor is outstanding. -/
  fetching : Bool
  /-- The host read of the fetch, or of the descriptor's data, has gone out (R196, R207). -/
  asked : Bool
  /-- A SETTLE descriptor that waits for its acknowledgements has failed: ERR and DONE_BYTES (R208, R211). -/
  failed : Option (Nat × Nat)
  /-- Whether a descriptor has named DRAM since the channel was armed (R212); none before the first. -/
  dramSide : Option Bool
  /-- The channel ends with the unit under way, because the die is on its way to SILLAGE-DEEP (R212). -/
  draining : Bool
  /-- Units that are passed over before the one that the trigger starts (R205). -/
  passing : Nat
  /-- Units that are passed over after the unit under way (R205). -/
  carry   : Nat
  /-- Frame start has reset the position while a unit ran (R205). -/
  resetDue : Bool
  /-- Overruns since the unit under way started: the units passed over after the pending one (R205). -/
  skips   : Nat
  /-- Triggers sent by timers and channels that have not arrived yet (R203, R206). -/
  due     : Nat
deriving DecidableEq, Repr

/-- A DMA write that has left the engine and has not landed (R210): its channel, whether at DRAM, address and bytes, and whether a
FENCE waits for it (R188). -/
structure Landing where
  chan  : Chan
  dram  : Bool
  addr  : Nat
  bytes : List Byte
  fenced : Bool
deriving DecidableEq, Repr

/-- Memories (chapter 12): sparse maps in canonical form, and the words whose ECC is uncorrectable. -/
structure Mem where
  /-- Scratch bytes by address, canonical; unlisted bytes read 0 (R216). -/
  scratch : List (Nat × Byte)
  /-- DRAM bytes by address, canonical; unlisted bytes read 0 (R223). -/
  dram    : List (Nat × Byte)
  /-- Scratch words that are uncorrectable (R216). -/
  scratchUe : List Nat
  /-- DRAM words that are uncorrectable (R225). -/
  dramUe  : List Nat
  /-- SCB_VIOL_INFO latch is taken (R219). -/
  violHeld : Bool
  /-- DRAM initialisation has failed since die reset (R223). -/
  initFailed : Bool
  /-- DMA writes on their way, oldest first (R210). -/
  unlanded : List Landing
  /-- Address of the word that the scrubber reads next (R224). -/
  scrubAt : Nat
  /-- 32-byte words read from DRAM in this frame period (DRC_BW_RD). -/
  wordsRd : Nat
  /-- 32-byte words written to DRAM in this frame period (DRC_BW_WR). -/
  wordsWr : Nat
deriving DecidableEq, Repr

/-- A frame buffer of the frame store (R238): what it holds. -/
structure FrameBuf where
  /-- Frame number; none for a free buffer. -/
  frame   : Option Nat
  /-- The frame is settled (R240). -/
  settled : Bool
  /-- Slices: index, frame number, LEN, CODEC. -/
  slices  : List (Nat × Nat × Nat × Nat)
  /-- Slices held when it settled. -/
  held    : Nat
deriving DecidableEq, Repr

/-- The nominal start that has fallen due and not been served (R241, R242). `time` is in 1/18 ns: 2.5 ns are 45 units, and
10^9 d / n ns are a whole number of units at every rate of R236. -/
structure Nominal where
  /-- The start, in 1/18 ns. -/
  time   : Nat
  /-- Frame to show; none repeats. -/
  frame  : Option Nat
  /-- It repeats because frames came too slowly (R241, R242). -/
  excess : Bool
deriving DecidableEq, Repr

/-- Raster and frame store beside registers (chapter 14). `lastNominal`, `lastStart` and the due start are in 1/18 ns of Accord
time, `firstN` is in whole ns. -/
structure Tmg where
  /-- The four frame buffers (R238). -/
  buffers : Vector FrameBuf 4
  /-- Buffer shown; free before the first frame. -/
  display : Nat
  /-- Buffer that takes slices; 4 for none. -/
  pending : Nat
  /-- Last nominal start N (R241). -/
  lastNominal : Option Nat
  /-- Last selected frame; none before the first (R245). -/
  lastFrame : Option Nat
  /-- N taken from a DEADLINE pair (R245). -/
  firstN : Option Nat
  /-- The nominal start that is due (R241). -/
  due : Option Nominal
  /-- Previous actual start A (R242). -/
  lastStart : Option Nat
  /-- The time between the last two actual starts, in 1/18 ns; 0 before two starts (R174). -/
  period : Nat
  /-- Starts of the frame shown (R241). -/
  shows : Nat
  /-- Frame starts in all (R280). -/
  starts : Nat
  /-- A frame is running (R246). -/
  inFrame : Bool
  /-- Line periods begun in the frame (R246). -/
  lines : Nat
  /-- Repeats not yet counted in an event entry (R243). -/
  nRepeat : Nat
  /-- Drops not yet counted in an event entry. -/
  nDrop : Nat
  /-- Forced drops not yet counted in an event entry (R244). -/
  nForced : Nat
  /-- Last TE sample, in CCLK (R249). -/
  teLast : Option Nat
  /-- The last TE periods, newest first (R249). -/
  tePeriods : List Nat
  /-- Class 2 words late in this frame (R226). -/
  late : Nat
  /-- Blocks of a reserved MODE decoded in this frame (R160). -/
  reserved : Nat
  /-- First slice that holds one (R160). -/
  reservedSlice : Nat
deriving DecidableEq, Repr

/-- One layer's delivery (R258–R263): its fills, its enable as sampled, an underrun in this frame, a configuration found
invalid. -/
structure Layer where
  /-- Fills counted since the frame start (R258). -/
  fills  : Nat
  /-- Enable as sampled (R263). -/
  on     : Bool
  /-- Underrun in this frame (R261). -/
  under  : Bool
  /-- Configuration found invalid (R266). -/
  invalid : Bool
deriving DecidableEq, Repr

/-- Layers, correction and dither as sampled at a frame start (chapters 15–17). -/
structure Lyr where
  /-- Heart. -/
  heart : Layer
  /-- Top. -/
  top   : Layer
  /-- TABLE_BANK as sampled (R264). -/
  bank  : Bool
  /-- INUSE as sampled (R270). -/
  corBank : Bool
  /-- OD_EN as sampled (R292). -/
  odEn  : Bool
  /-- DITHER_PHASE as sampled (R295). -/
  dphase : Nat
  /-- Lines of this frame processed with overdrive enabled (R291). -/
  odLines : Nat
  /-- DRAM words poisoned or late in this frame (R225, R226). -/
  bad : List Nat
  /-- Correction blocks at unity in this frame (R225). -/
  unity : List Nat
  /-- SWAP toggles at the next frame start (R272). -/
  swapDue : Bool
  /-- MAP_OK is set at the next frame start (R271). -/
  mapDue : Bool
  /-- Lamps clipped by the last pass (R272). -/
  clipped : Nat
  /-- CVU-B's algorithm for this frame (R231). -/
  bltSel : Nat
  /-- DRAM as the class 2 reads of the lines ahead have found it: line and contents (R226). -/
  ahead : List (Nat × List (Nat × Byte))
deriving DecidableEq, Repr

/-- Wear engine and panel identity (chapter 16). -/
structure Wear where
  /-- DT per line group, in ns (R279). -/
  dt : List (Nat × Nat)
  /-- This frame is sampled (R280). -/
  sampling : Bool
  /-- The line group under way is not sampled (R280). -/
  skip : Bool
  /-- Ledger parts whose checkpoint is overdue, oldest first (R282). -/
  overdue : List Nat
  /-- The ageing curves of TABLE_ID 0x03 (R274). -/
  curves : List Byte
  /-- The panel key read (R285). -/
  key : Option (List Byte)
  /-- The ledger's mismatch has ended (R285). -/
  ledgerOk : Bool
  /-- The map's mismatch has ended (R285). -/
  mapKeyOk : Bool
  /-- A re-target pass runs (R272). -/
  pass : Bool
  /-- A build runs (R271). -/
  build : Bool
  /-- The targets of R, G and B and GMAX that the pass under way has taken (R272, R273). -/
  goal : List Nat
  /-- Those that the build under way has taken (R271, R273). -/
  buildGoal : List Nat
  /-- The identity has been read, or found unreadable, since die reset (R285, R372). -/
  readOnce : Bool
  /-- Identity read under way: attempts made (R319). -/
  reading : Option Nat
  /-- The record has been read for this takeover, or found unreadable (R331). -/
  readDone : Bool
deriving DecidableEq, Repr

/-- An echo request outstanding in a group (R310). -/
structure EchoReq where
  lane  : Nat
  addr  : Nat
  retried : Bool
deriving DecidableEq, Repr

/-- LDB beside its registers (chapter 18). -/
structure Ldb where
  /-- Alive counters of the frames sent, by lane and class (R302). -/
  txAlive : List (Nat × BitVec 16)
  /-- Echo request outstanding in each group (R310). -/
  requests : Vector (Option EchoReq) 4
  /-- Bank of the current frame (R305). -/
  bank : Nat
  /-- Bank of the last LATCH (R306). -/
  latched : Nat
  /-- Bank that the panel displays (R306). -/
  shown : Nat
  /-- The last LATCH has still to take effect (R306). -/
  latchPending : Bool
  /-- This frame is not sent (R306). -/
  skip : Bool
  /-- Skipped frames not yet counted in an event entry (R306). -/
  nSkip : Nat
  /-- What the frame's GS_WRITE frames have carried so far: lane, row address, IC (R305). -/
  sent : List (Nat × Nat × Nat)
  /-- ROW_ADDR as driven (R311). -/
  row : Nat
  /-- ROW_OE as driven (R311). -/
  oe : Bool
  /-- The die drives ROW_ADDR and ROW_OE (R34). -/
  driving : Bool
  /-- DCLK runs (R300). -/
  dclk : Bool
  /-- IC flags of a DEFECT_SCAN: lane, IC, OPEN and SHORT bits (R278). -/
  flags : List (Nat × Nat × List (BitVec 16) × List (BitVec 16))
  /-- An IC of it has not answered (R278). -/
  unknown : Bool
  /-- ICs that it has still to ask: lane and address, in order (R278). -/
  scan : List (Nat × Nat)
deriving DecidableEq, Repr

/-- How far a takeover has come (R331–R333): it waits for GCLK or the identity record, for the reply to STATUS_READ, for the
TE edge after RESUME, or for its next try. -/
inductive Takeover where
  | none
  | waiting
  | asked
  | resumed
  | failed
deriving DecidableEq, Repr

/-- A rectangle of the Blotter (R336). -/
structure Rect where
  tap : Nat
  freeze : Bool
  x : Nat
  y : Nat
  w : Nat
  h : Nat
  expect : List Nat
deriving DecidableEq, Repr

/-- One of the 16 rectangles: the setting in force, the one that applies from the next frame start, the run of mismatches
and the check value so far. -/
structure RectState where
  /-- Setting in force (R336). -/
  cur  : Option Rect
  /-- Setting that applies from the next frame start (R336). -/
  next : Option (Option Rect)
  /-- Mismatches in a row (R339). -/
  run  : Nat
  /-- Check value so far (R337). -/
  crc  : Nat
deriving DecidableEq, Repr

/-- Trim engine (chapter 21). Taps are state that nothing can read (R343). -/
structure Trim where
  /-- DESKEW tap by lane (R346). -/
  deskew : List (Nat × Nat)
  /-- THRESH tap by input (R347). -/
  thresh : List (Nat × Nat)
  /-- RXOFF tap by in-lane (R348). -/
  rxoff  : List (Nat × Nat)
  /-- IREF gain tap (R349). -/
  gain   : Nat
  /-- IREF offset tap (R349). -/
  offset : Nat
  /-- Kinds still to run of the run under way, the one at work first (R344). -/
  todo : List Nat
  /-- The run is automatic (R351). -/
  auto : Bool
  /-- Kinds run (R352). -/
  ran : Nat
  /-- Kinds passed (R352). -/
  passed : Nat
  /-- Kinds stopped before they were done (R350). -/
  missed : Nat
  /-- Status of each kind before the run (TRM_STATUS[7:0]). -/
  old : Nat
  /-- Position within the kind at work (R344). -/
  pos : Nat
  /-- Lanes or inputs that have failed in it (R352). -/
  bad : List Nat
  /-- Taps found in it (R343). -/
  tap : List (Nat × Nat)
  /-- TRIM_WAIT has been raised for the kind at work. -/
  waitRaised : Bool
  /-- The IREF code of the command (R350). -/
  code : Nat
  /-- The measured taps wait for the next frame start (R349). -/
  irefDue : Bool
  /-- The time from a frame end to the next start (R345). -/
  window : Bool
  /-- Kinds that are due to run by themselves and have not started (R351). -/
  due : Nat
deriving DecidableEq, Repr

/-- What the store engine is doing (chapter 22): a host program, a host erase with the blocks after the one under way, record
`idx` of a copy of a ledger part, or a block of a refresh; `erased` once the block has been erased. -/
inductive StoreOp where
  | idle
  | program (base : Nat) (data : List Byte) (short : Bool)
  | erase (block left : Nat)
  | part (p copy idx : Nat) (records : List (List Byte)) (erased : Bool)
  | refresh (block : Nat) (record : List Byte) (erased : Bool)
deriving DecidableEq, Repr

/-- The compensation store: flash contents (kept through every reset) and engine. -/
structure Cst where
  /-- Flash bytes by address; unlisted bytes are erased (R355). -/
  flash : List (Nat × Byte)
  /-- What the store engine is doing (R360). -/
  op : StoreOp
  /-- A host operation that waits for the engine (R360). -/
  queued : Option StoreOp
  /-- A ledger part whose checkpoint waits (R282). -/
  wait : Option Nat
  /-- The erase is suspended (R363). -/
  suspended : Bool
  /-- JSEQ of the next journal entry (R361). -/
  jseq : Nat
  /-- Its slot (R361). -/
  jslot : Nat
  /-- A refresh is unfinished: its next block, and whether that block was cut off by a reset (R364). -/
  refresh : Option (Nat × Bool)
  /-- The device identity has been read and is right (R362). -/
  deviceOk : Bool
  /-- Suspended by DRYDOWN and not to resume (R334). -/
  drySuspended : Bool
deriving DecidableEq, Repr

/-- One die. -/
structure Die where
  /-- Which die (R2). -/
  id    : DieId
  /-- Its power state (R54). -/
  power : Power
  /-- The keeper's copy of its registers (R68). -/
  keep  : Keep
  /-- CCLK count (R69). -/
  cclk  : Nat
  /-- Free values used so far (the model's own field). -/
  free  : Nat
  /-- Registers by BAR0 offset; an unlisted one holds its reset value (R388). -/
  regs  : List (Nat × Word)
  /-- HI latches of the 64-bit pairs, by the HI register's offset (R385). -/
  latch : List (Nat × Word)
  /-- Rate limits of events (R376): 256 × code + key, and the CCLK of the last entry. -/
  limits : List (Nat × Nat)
  hif : Hif
  clk : Clk
  qphy : Qphy
  pcl : Pcl
  acd : Acd
  sti : Sti
  /-- DMA channels (R200). -/
  channels : Vector Channel 16
  mem : Mem
  tmg : Tmg
  lyr : Lyr
  wear : Wear
  ldb : Ldb
  /-- How far a takeover has come (R331). -/
  takeover : Takeover
  /-- Blotter rectangles (R336). -/
  rects : Vector RectState 16
  /-- Rectangles that have set FROZEN, oldest first (R340). -/
  bltSetters : List Nat
  trim : Trim
  cst : Cst
  /-- A cause has come to stand since the die took the scan: the hand-off at the next frame end is due, and completes even if the
  causes clear (R322). -/
  handoffDue : Bool
  /-- SYNC periods that have passed with LEAVING set, on the way to SILLAGE-DEEP (R327). -/
  leaveSyncs : Nat
  /-- In DRYDOWN, the die still forwards and serves (R334). -/
  forwarding : Bool
  out : List Out
deriving DecidableEq, Repr

/-- The module, its two dies, and the commands that wait, first in first out. -/
structure State where
  mod : Module
  w : Die
  e : Die
  pending : List Instr
deriving DecidableEq, Repr

/-- A lane at reset: DISABLED, with nothing under way (DESIGN CHOICE, assumption 34). -/
def LaneState.reset : LaneState :=
  { failRun := 0, retrying := false, readyRun := 0, verified := false, port := false, search := none,
    tuned := false, verifyFailed := false, retrainReq := false, serviceReq := none, retrained := false,
    slipped := false, lowRaised := false, trendRaised := false, outPrbs := none, outTs := false,
    outJoin := false, prbsTried := false, tsSeq := 0, rxScr := 0, txScr := 0, tapReq := false, noTune := false, req := none, prbs := 0x7FFFFFFF }

/-- A channel at reset: IDLE (DESIGN CHOICE, assumption 34). -/
def Channel.reset : Channel :=
  { options := 0, first := 0, addr := 0, desc := none, fresh := false, half := none, settling := false,
    emptyRun := false, abort := none, fetching := false, asked := false, failed := none, dramSide := none, draining := false,
    passing := 0, carry := 0, resetDue := false, skips := 0, due := 0 }

/-- A link that has not trained, and configuration space before the host programs it (DESIGN CHOICE, assumption 10). -/
def linkReset : PcieLink :=
  { gen := 0, x2 := false, mps := 0, mrrs := 2, roEnable := true, msixEnable := false, msixMask := false }

/-- The host interface at reset (R366). The link's settings are those of a link that has not trained. (DESIGN CHOICE,
assumption 10; DESIGN CHOICE, assumption 34). -/
def Hif.reset : Hif :=
  { cmpTail := 0, cmpHead := 0, evtTail := 0, evtHead := 0, tail := 0, polling := false, fetching := 0, fast := 0,
    fails := 0, ringFails := 0, readHeld := false, fetched := [], wait := none, fence := none, held := [], stalled := false, table := none,
    trim := none, store := none, wear := none, service := none, scan := none, panel := none, scanTime := 0, logging := true,
    linkLost := false, d3hot := false, backlog := [], logLost := 0, lost := 0, sbAlive := 0, sbDue := false,
    raised := [], vecs := [], holdoff := [], msix := [], pba := 0,
    link := linkReset, layersOff := true }

/-- CLK at reset (DESIGN CHOICE, assumption 34). -/
def Clk.reset : Clk :=
  { phase := .none, target := 0, cmd := none, seg := 10, follow := false, slewing := false, txOff := false,
    bootLost := false }

/-- QPHY at reset (DESIGN CHOICE, assumption 34). -/
def Qphy.reset : Qphy :=
  { lanes := Vector.replicate 4 LaneState.reset, orderRaised := false, lsLast := 0, lsAge := 0,
    lsSkip := 0 }

/-- Parcels at reset: every queue, window and key empty (R366) (DESIGN CHOICE, assumption 34). -/
def Pcl.reset : Pcl :=
  { rx := .none, rxSel := 0, rxDone := [], rxStripe := 0, txStripe := 0, fwdQ := [], locQ := [], timeQ := [],
    localTurn := false, txAlive := [], rxAlive := [], windows := [], seqs := [], outstanding := [], missing := [],
    wallQ := [], deferred := [], lastSeq := [], heldSince := 0, carried := false, badStripe := false,
    ccMissing := false, lastSent := none }

/-- Accord at reset. The host's order on BLANK stands at reset (R248) (DESIGN CHOICE, assumption 34). -/
def Acd.reset : Acd :=
  { time := 0, rate := 0, linkSeq := 0, echoSeq := 0, echoAt := 0, departs := [], exchanges := [], ownA := 0xFF,
    ownB := 0xFF, farA := 0xFF, farB := 0xFF, syncSeq := 0, synced := false,
    rates := [], est := 0, steady := 0, inLimit := 0, stepped := false, based := false, ownDist := 0xFF,
    farDist := 0xFF, ownAt := none, farAt := none, masterAt := none, peerClaims := false,
    yielded := false, noMaster := false, stamped := none, repeatDl := [], doneSeen := none, awaitDone := false, deadlines := [], videoSeen := none,
    nbrLeaving := false, leaving := false, hostBlank := true, wallBlank := false, hostSil := false,
    wallSil := false, freeze := false, wallSeqs := [] }

/-- The stitch at reset: DOWN (DESIGN CHOICE, assumption 34). -/
def Sti.reset : Sti :=
  { good := 0, failRun := 0, peer := none, peerBooted := false, peerSettled := none, txAlive := [],
    holdRuns := false, holdExpired := false, upAt := 0, lockRun := 0, start := none, barred := false, woke := false,
    crossing := [], idleCut := false, holdPeriod := 0 }

/-- A free frame buffer. -/
def FrameBuf.free : FrameBuf := { frame := none, settled := false, slices := [], held := 0 }

/-- Raster and frame store at reset (DESIGN CHOICE, assumption 34). -/
def Tmg.reset : Tmg :=
  { buffers := Vector.replicate 4 FrameBuf.free, display := 0, pending := 1, lastNominal := none, lastFrame := none,
    firstN := none, due := none, lastStart := none, period := 0, shows := 0, starts := 0, inFrame := false, lines := 0,
    nRepeat := 0, nDrop := 0, nForced := 0, teLast := none, tePeriods := [], late := 0, reserved := 0,
    reservedSlice := 0 }

/-- A layer at reset. -/
def Layer.reset : Layer := { fills := 0, on := false, under := false, invalid := false }

/-- Layers at reset (DESIGN CHOICE, assumption 34). -/
def Lyr.reset : Lyr :=
  { heart := .reset, top := .reset, bank := false, corBank := false, odEn := false, dphase := 0, odLines := 0,
    bad := [], unity := [], swapDue := false, mapDue := false, clipped := 0, bltSel := 1, ahead := [] }

/-- Wear engine at reset (DESIGN CHOICE, assumption 17; DESIGN CHOICE, assumption 34). -/
def Wear.reset : Wear :=
  { dt := [], sampling := false, skip := false, overdue := [], curves := List.replicate 240 0, key := none,
    ledgerOk := false, mapKeyOk := false, readOnce := false, pass := false, build := false, goal := [], buildGoal := [],
    reading := none, readDone := false }

/-- LDB at reset (DESIGN CHOICE, assumption 34). -/
def Ldb.reset : Ldb :=
  { txAlive := [], requests := Vector.replicate 4 none, bank := 0, latched := 0, shown := 0, latchPending := false, skip := false,
    nSkip := 0, sent := [], row := 0, oe := false, driving := false, dclk := false,
    flags := [], unknown := false, scan := [] }

/-- Trim engine at reset (R343, R352). Every tap is at mid-range: a lane or input that the tap lists do not name is there.
(DESIGN CHOICE, assumption 34). -/
def Trim.reset : Trim :=
  { deskew := [], thresh := [], rxoff := [], gain := 32, offset := 32, todo := [], auto := false, ran := 0, passed := 0,
    missed := 0, old := 0, pos := 0, bad := [], tap := [], waitRaised := false, code := 0, irefDue := false, window := false,
    due := 0 }

/-- The compensation store of a new part: every byte erased (DESIGN CHOICE, assumption 8). -/
def Cst.reset : Cst :=
  { flash := [], op := .idle, queued := none, wait := none, suspended := false, jseq := 0, jslot := 0, refresh := none,
    deviceOk := false, drySuspended := false }

/-- A die right after its reset, with an empty compensation store (R366, R388) (DESIGN CHOICE, assumption 34). -/
def Die.reset (d : DieId) : Die :=
  { id := d, power := .booting, keep := { cfg := 1, status := 0 }, cclk := 0, free := 0, regs := [], latch := [],
    limits := [], hif := .reset, clk := .reset, qphy := .reset, pcl := .reset, acd := .reset, sti := .reset,
    channels := Vector.replicate 16 Channel.reset,
    mem := {
      scratch := [], dram := [], scratchUe := [], dramUe := [], violHeld := false, initFailed := false
      unlanded := [], scrubAt := 0, wordsRd := 0, wordsWr := 0 },
    tmg := .reset, lyr := .reset, wear := .reset, ldb := .reset, takeover := .none,
    rects := Vector.replicate 16 { cur := none, next := none, run := 0, crc := 0 }, bltSetters := [],
    trim := .reset, cst := .reset, handoffDue := false, leaveSyncs := 0, forwarding := true, out := [] }

/-- The keeper in OFF: nothing powered (DESIGN CHOICE, assumption 7). -/
def Module.reset : Module :=
  { phase := .off, sw := false, conv := false, good := false, diesUp := false, present := false, modEn := false,
    modEnFell := false, ejectClosed := false, hold := false, maddr := 0, rtc := 0, uv := 0, ov := 0, lastOff := 0,
    nv := { rtc := 0, uv := 0, ov := 0, lastOff := 0 }, fault := none, cool := 0, drydown := none, stInput := 0,
    stTemp := 0, stCml := 0, stMfr := 0, alert := false, warn := false,
    meas := { vin := 0, iin := 0, base := 0, dieW := 0, dieE := 0 }, out := [] }

/-- The module before anything happens: OFF, no command waiting. -/
def State.reset : State := { mod := .reset, w := .reset .W, e := .reset .E, pending := [] }

end Sys2Proof.Machine
end

