-- ==== Sys2Proof/Machine/RegMap.lean ====
section
/-! DEFINITION. The BAR0 register map (spec/25_address_map.md and the Registers part of each chapter): every field as
offset, lowest bit and width; the access code of every bit (R4); and the whole-register reset values (R388). -/

namespace Sys2Proof.Machine

/-- The register fields of the chapters' Registers parts, under short names: register, lowest bit, width. A register
that comes in several copies takes the copy's number. -/
def F.sysId : F := ⟨0x0000, 0, 32⟩
/-- SYS_STATUS, bits [0:0]. -/
def F.bootDone : F := ⟨0x0004, 0, 1⟩
/-- SYS_STATUS, bits [1:1]. -/
def F.sealed : F := ⟨0x0004, 1, 1⟩
/-- SYS_STATUS, bits [2:2]. -/
def F.runSeen : F := ⟨0x0004, 2, 1⟩
/-- SYS_SEAL, bits [15:0]. -/
def F.sealKey : F := ⟨0x0008, 0, 16⟩
/-- SYS_BOOT_TIME, bits [15:0]. -/
def F.bootMs : F := ⟨0x000c, 0, 16⟩
/-- CLK_STATUS, bits [0:0]. -/
def F.refclkOk : F := ⟨0x0400, 0, 1⟩
/-- CLK_STATUS, bits [1:1]. -/
def F.cclkLock : F := ⟨0x0400, 1, 1⟩
/-- CLK_STATUS, bits [2:2]. -/
def F.holdover : F := ⟨0x0400, 2, 1⟩
/-- CLK_STATUS, bits [3:3]. -/
def F.holdoverExpired : F := ⟨0x0400, 3, 1⟩
/-- CLK_STATUS, bits [4:4]. -/
def F.gclkRun : F := ⟨0x0400, 4, 1⟩
/-- CLK_STATUS, bits [5:5]. -/
def F.gclkSyn : F := ⟨0x0400, 5, 1⟩
/-- CLK_STATUS, bits [6:6]. -/
def F.gclkPend : F := ⟨0x0400, 6, 1⟩
/-- CLK_STATUS, bits [7:7]. -/
def F.gclkIdleLock : F := ⟨0x0400, 7, 1⟩
/-- CLK_GCLK_CUR, bits [23:0]. -/
def F.gclkCur : F := ⟨0x0404, 0, 24⟩
/-- CLK_GCLK_NEXT, bits [23:0]. -/
def F.gclkNext : F := ⟨0x0408, 0, 24⟩
/-- CLK_GCLK_SEG, bits [3:0]. -/
def F.segLog2 : F := ⟨0x040c, 0, 4⟩
/-- CLK_LDB_RATE, bits [2:0]. -/
def F.ldbRate : F := ⟨0x0410, 0, 3⟩
/-- CLK_GCLK_COUNT, bits [15:0]. -/
def F.gclkSwitches : F := ⟨0x0414, 0, 16⟩
/-- CLK_GCLK_COUNT, bits [31:16]. -/
def F.gclkLockFails : F := ⟨0x0414, 16, 16⟩
/-- CLK_EB_SLIP, bits [31:0]. -/
def F.ebSlips : F := ⟨0x0418, 0, 32⟩
/-- PWR_STATE, bits [3:0]. -/
def F.pwrState : F := ⟨0x0800, 0, 4⟩
/-- PWR_STATE, bits [7:4]. -/
def F.pwrLastOff : F := ⟨0x0800, 4, 4⟩
/-- PWR_VIN, bits [15:0]. -/
def F.pwrVin : F := ⟨0x0804, 0, 16⟩
/-- PWR_VIN, bits [31:16]. -/
def F.pwrIin : F := ⟨0x0804, 16, 16⟩
/-- PWR_TEMP, bits [15:0]. -/
def F.tempDie : F := ⟨0x0808, 0, 16⟩
/-- PWR_TEMP, bits [31:16]. -/
def F.tempBase : F := ⟨0x0808, 16, 16⟩
/-- PWR_CFG, bits [1:0]. -/
def F.pwrCfg : F := ⟨0x080c, 0, 2⟩
/-- PWR_STATUS, bits [6:0]. -/
def F.pwrStatus : F := ⟨0x0810, 0, 7⟩
/-- PWR_UV_COUNT, bits [31:0]. -/
def F.uvCount : F := ⟨0x0814, 0, 32⟩
/-- PWR_OV_COUNT, bits [31:0]. -/
def F.ovCount : F := ⟨0x0818, 0, 32⟩
/-- PWR_RTC_LO, bits [31:0]. -/
def F.rtcLo : F := ⟨0x081c, 0, 32⟩
/-- PWR_RTC_HI, bits [15:0]. -/
def F.rtcHi : F := ⟨0x0820, 0, 16⟩
/-- PWR_SIL_CFG, bits [0:0]. -/
def F.wallDeep : F := ⟨0x0840, 0, 1⟩
/-- PWR_SIL_CFG, bits [1:1]. -/
def F.idleDeep : F := ⟨0x0840, 1, 1⟩
/-- PWR_SIL_CFG, bits [13:8]. -/
def F.smAddr : F := ⟨0x0840, 8, 6⟩
/-- PWR_SIL_IDLE, bits [23:0]. -/
def F.idleMs : F := ⟨0x0844, 0, 24⟩
/-- PWR_SIL_STATUS, bits [0:0]. -/
def F.silHost : F := ⟨0x0848, 0, 1⟩
/-- PWR_SIL_STATUS, bits [1:1]. -/
def F.silHostDeep : F := ⟨0x0848, 1, 1⟩
/-- PWR_SIL_STATUS, bits [2:2]. -/
def F.silWall : F := ⟨0x0848, 2, 1⟩
/-- PWR_SIL_STATUS, bits [3:3]. -/
def F.silIdle : F := ⟨0x0848, 3, 1⟩
/-- PWR_SIL_STATUS, bits [4:4]. -/
def F.silRefclk : F := ⟨0x0848, 4, 1⟩
/-- PWR_SIL_STATUS, bits [5:5]. -/
def F.silStitch : F := ⟨0x0848, 5, 1⟩
/-- PWR_SIL_STATUS, bits [6:6]. -/
def F.silQuiet : F := ⟨0x0848, 6, 1⟩
/-- PWR_SIL_STATUS, bits [7:7]. -/
def F.silTakeover : F := ⟨0x0848, 7, 1⟩
/-- PWR_SIL_STATUS, bits [9:8]. -/
def F.heldBank : F := ⟨0x0848, 8, 2⟩
/-- PWR_SIL_COUNT, bits [15:0]. -/
def F.handoffs : F := ⟨0x084c, 0, 16⟩
/-- PWR_SIL_COUNT, bits [31:16]. -/
def F.takeovers : F := ⟨0x084c, 16, 16⟩
/-- QPHY_CFG, bits [1:0]. -/
def F.qRate : F := ⟨0x1000, 0, 2⟩
/-- QPHY_CFG, bits [2:2]. -/
def F.tapMode : F := ⟨0x1000, 2, 1⟩
/-- QPHY_CFG, bits [3:3]. -/
def F.retune : F := ⟨0x1000, 3, 1⟩
/-- QPHY_CFG, bits [4:4]. -/
def F.qEnable : F := ⟨0x1000, 4, 1⟩
/-- QPHY_TX_INIT, bits [3:0]. -/
def F.txPre : F := ⟨0x1004, 0, 4⟩
/-- QPHY_TX_INIT, bits [12:8]. -/
def F.txPost : F := ⟨0x1004, 8, 5⟩
/-- QPHY_MARGIN, bits [7:0]. -/
def F.minH : F := ⟨0x1008, 0, 8⟩
/-- QPHY_MARGIN, bits [15:8]. -/
def F.minW : F := ⟨0x1008, 8, 8⟩
/-- QPHY_MARGIN, bits [23:16]. -/
def F.deltaH : F := ⟨0x1008, 16, 8⟩
/-- QPHY_MARGIN, bits [31:24]. -/
def F.marginPeriod : F := ⟨0x1008, 24, 8⟩
/-- LANE_STATUS, bits [3:0]. -/
def F.laneState (k : Nat) : F := ⟨0x1040 + 0x20 * k, 0, 4⟩
/-- LANE_STATUS, bits [5:4]. -/
def F.lanePhys (k : Nat) : F := ⟨0x1040 + 0x20 * k, 4, 2⟩
/-- LANE_STATUS, bits [6:6]. -/
def F.laneInv (k : Nat) : F := ⟨0x1040 + 0x20 * k, 6, 1⟩
/-- LANE_STATUS, bits [7:7]. -/
def F.prbsSync (k : Nat) : F := ⟨0x1040 + 0x20 * k, 7, 1⟩
/-- LANE_TAPS, bits [3:0]. -/
def F.tapPre (k : Nat) : F := ⟨0x1044 + 0x20 * k, 0, 4⟩
/-- LANE_TAPS, bits [12:8]. -/
def F.tapPost (k : Nat) : F := ⟨0x1044 + 0x20 * k, 8, 5⟩
/-- LANE_TAPS, bits [19:16]. -/
def F.tapRpre (k : Nat) : F := ⟨0x1044 + 0x20 * k, 16, 4⟩
/-- LANE_TAPS, bits [28:24]. -/
def F.tapRpost (k : Nat) : F := ⟨0x1044 + 0x20 * k, 24, 5⟩
/-- LANE_EYE, bits [7:0]. -/
def F.eyeH (k : Nat) : F := ⟨0x1048 + 0x20 * k, 0, 8⟩
/-- LANE_EYE, bits [15:8]. -/
def F.eyeW (k : Nat) : F := ⟨0x1048 + 0x20 * k, 8, 8⟩
/-- LANE_EYE, bits [23:16]. -/
def F.eyeVH (k : Nat) : F := ⟨0x1048 + 0x20 * k, 16, 8⟩
/-- LANE_EYE, bits [31:24]. -/
def F.eyeVW (k : Nat) : F := ⟨0x1048 + 0x20 * k, 24, 8⟩
/-- PRBS_ERR, bits [31:0]. -/
def F.prbsErr (k : Nat) : F := ⟨0x104c + 0x20 * k, 0, 32⟩
/-- PRBS_BITS_LO, bits [31:0]. -/
def F.prbsBitsLo (k : Nat) : F := ⟨0x1050 + 0x20 * k, 0, 32⟩
/-- PRBS_BITS_HI, bits [15:0]. -/
def F.prbsBitsHi (k : Nat) : F := ⟨0x1054 + 0x20 * k, 0, 16⟩
/-- LANE_COUNTS, bits [15:0]. -/
def F.lockLosses (k : Nat) : F := ⟨0x1058 + 0x20 * k, 0, 16⟩
/-- LANE_COUNTS, bits [31:16]. -/
def F.trainFails (k : Nat) : F := ⟨0x1058 + 0x20 * k, 16, 16⟩
/-- ACC_PCL_CFG, bits [7:0]. -/
def F.pclAddr : F := ⟨0x1800, 0, 8⟩
/-- ACC_PCL_CFG, bits [8:8]. -/
def F.pclRing : F := ⟨0x1800, 8, 1⟩
/-- ACC_PCL_CFG, bits [9:9]. -/
def F.statEn : F := ⟨0x1800, 9, 1⟩
/-- ACC_PCL_CFG, bits [23:16]. -/
def F.statPeriod : F := ⟨0x1800, 16, 8⟩
/-- ACC_PCL_STATUS, bits [3:0]. -/
def F.traffic : F := ⟨0x1804, 0, 4⟩
/-- ACC_PCL_STATUS, bits [4:4]. -/
def F.degraded : F := ⟨0x1804, 4, 1⟩
/-- ACC_PCL_STATUS, bits [5:5]. -/
def F.double : F := ⟨0x1804, 5, 1⟩
/-- ACC_PCL_GOOD_LO, bits [31:0]. -/
def F.pclGoodLo : F := ⟨0x1808, 0, 32⟩
/-- ACC_PCL_GOOD_HI, bits [31:0]. -/
def F.pclGoodHi : F := ⟨0x180c, 0, 32⟩
/-- ACC_PCL_FAIL, bits [31:0]. -/
def F.pclFail : F := ⟨0x1810, 0, 32⟩
/-- ACC_PCL_RECON, bits [31:0]. -/
def F.pclRecon : F := ⟨0x1814, 0, 32⟩
/-- ACC_PCL_PARITY, bits [31:0]. -/
def F.pclParity : F := ⟨0x1818, 0, 32⟩
/-- ACC_PCL_HOLD, bits [31:0]. -/
def F.pclHold : F := ⟨0x181c, 0, 32⟩
/-- ACC_PCL_COPY, bits [31:0]. -/
def F.pclCopy : F := ⟨0x1820, 0, 32⟩
/-- ACC_PCL_STALE, bits [31:0]. -/
def F.pclStale : F := ⟨0x1824, 0, 32⟩
/-- ACC_PCL_FORMAT, bits [31:0]. -/
def F.pclFormat : F := ⟨0x1828, 0, 32⟩
/-- ACC_PCL_LOCAL_DROP, bits [31:0]. -/
def F.pclLocalDrop : F := ⟨0x182c, 0, 32⟩
/-- ACC_PCL_CTRL_DUP, bits [31:0]. -/
def F.pclCtrlDup : F := ⟨0x1830, 0, 32⟩
/-- ACC_PCL_RETX, bits [31:0]. -/
def F.pclRetx : F := ⟨0x1834, 0, 32⟩
/-- ACC_PCL_MISSING, bits [31:0]. -/
def F.pclMissing : F := ⟨0x1838, 0, 32⟩
/-- ACC_PCL_FWD_DROP, bits [31:0]. -/
def F.pclFwdDrop : F := ⟨0x183c, 0, 32⟩
/-- ACC_ACD_ROLE, bits [1:0]. -/
def F.role : F := ⟨0x1840, 0, 2⟩
/-- ACC_ACD_LATENCY, bits [12:0]. -/
def F.latencyUs : F := ⟨0x1844, 0, 13⟩
/-- ACC_ACD_STATUS, bits [2:0]. -/
def F.join : F := ⟨0x1848, 0, 3⟩
/-- ACC_ACD_STATUS, bits [3:3]. -/
def F.rateOk : F := ⟨0x1848, 3, 1⟩
/-- ACC_ACD_STATUS, bits [4:4]. -/
def F.isMaster : F := ⟨0x1848, 4, 1⟩
/-- ACC_ACD_STATUS, bits [15:8]. -/
def F.master : F := ⟨0x1848, 8, 8⟩
/-- ACC_ACD_STATUS, bits [23:16]. -/
def F.mdist : F := ⟨0x1848, 16, 8⟩
/-- ACC_ACD_STATUS, bits [31:24]. -/
def F.mhops : F := ⟨0x1848, 24, 8⟩
/-- ACC_ACD_HOPS, bits [7:0]. -/
def F.hopsA : F := ⟨0x184c, 0, 8⟩
/-- ACC_ACD_HOPS, bits [8:8]. -/
def F.portA : F := ⟨0x184c, 8, 1⟩
/-- ACC_ACD_HOPS, bits [23:16]. -/
def F.hopsB : F := ⟨0x184c, 16, 8⟩
/-- ACC_ACD_HOPS, bits [24:24]. -/
def F.portB : F := ⟨0x184c, 24, 1⟩
/-- ACC_ACD_TIME_LO, bits [31:0]. -/
def F.accTimeLo : F := ⟨0x1850, 0, 32⟩
/-- ACC_ACD_TIME_HI, bits [31:0]. -/
def F.accTimeHi : F := ⟨0x1854, 0, 32⟩
/-- ACC_ACD_OFFSET, bits [31:0]. -/
def F.accOffset : F := ⟨0x1858, 0, 32⟩
/-- ACC_ACD_LINKDLY, bits [31:0]. -/
def F.linkDly : F := ⟨0x185c, 0, 32⟩
/-- ACC_ACD_OWNER, bits [3:2]. -/
def F.own1 : F := ⟨0x1860, 2, 2⟩
/-- ACC_ACD_OWNER, bits [5:4]. -/
def F.own2 : F := ⟨0x1860, 4, 2⟩
/-- ACC_ACD_OWNER, bits [7:6]. -/
def F.own3 : F := ⟨0x1860, 6, 2⟩
/-- ACC_ACD_OWNER, bits [11:10]. -/
def F.own5 : F := ⟨0x1860, 10, 2⟩
/-- ACC_ACD_OWNER, bits [13:12]. -/
def F.own6 : F := ⟨0x1860, 12, 2⟩
/-- ACC_ACD_OWNER, bits [17:16]. -/
def F.own8 : F := ⟨0x1860, 16, 2⟩
/-- ACC_ACD_OWNER, bits [19:18]. -/
def F.own9 : F := ⟨0x1860, 18, 2⟩
/-- ACC_ACD_AUTH, bits [0:0]. -/
def F.authRequire : F := ⟨0x1864, 0, 1⟩
/-- ACC_ACD_AUTH, bits [1:1]. -/
def F.authSign : F := ⟨0x1864, 1, 1⟩
/-- ACC_ACD_AUTH, bits [2:2]. -/
def F.wallAdmin : F := ⟨0x1864, 2, 1⟩
/-- ACC_ACD_KEY, bits [31:0]. -/
def F.accKey (k : Nat) : F := ⟨0x1868 + 0x4 * k, 0, 32⟩
/-- ACC_ACD_QUEUE, bits [4:0]. -/
def F.wallDepth : F := ⟨0x1878, 0, 5⟩
/-- ACC_ACD_QUEUE, bits [12:8]. -/
def F.wallDeferred : F := ⟨0x1878, 8, 5⟩
/-- ACC_ACD_QUEUE, bits [31:16]. -/
def F.nakBusyCount : F := ⟨0x1878, 16, 16⟩
/-- ACC_ACD_BADTIME, bits [31:0]. -/
def F.badTime : F := ⟨0x187c, 0, 32⟩
/-- HIF_CTRL, bits [0:0]. -/
def F.hifEnable : F := ⟨0x2000, 0, 1⟩
/-- HIF_CTRL, bits [1:1]. -/
def F.cvuReq : F := ⟨0x2000, 1, 1⟩
/-- HIF_STATUS, bits [0:0]. -/
def F.hifRunning : F := ⟨0x2004, 0, 1⟩
/-- HIF_STATUS, bits [1:1]. -/
def F.hifLinkUp : F := ⟨0x2004, 1, 1⟩
/-- HIF_STATUS, bits [2:2]. -/
def F.fetchStall : F := ⟨0x2004, 2, 1⟩
/-- HIF_STATUS, bits [3:3]. -/
def F.cmpFull : F := ⟨0x2004, 3, 1⟩
/-- HIF_STATUS, bits [4:4]. -/
def F.evtFull : F := ⟨0x2004, 4, 1⟩
/-- HIF_STATUS, bits [5:5]. -/
def F.hifWaiting : F := ⟨0x2004, 5, 1⟩
/-- HIF_STATUS, bits [31:16]. -/
def F.hifCmdHead : F := ⟨0x2004, 16, 16⟩
/-- HIF_DB_BASE_LO, bits [31:6]. -/
def F.dbBaseLo : F := ⟨0x2008, 6, 26⟩
/-- HIF_DB_BASE_HI, bits [31:0]. -/
def F.dbBaseHi : F := ⟨0x200c, 0, 32⟩
/-- HIF_SB_BASE_LO, bits [31:6]. -/
def F.sbBaseLo : F := ⟨0x2010, 6, 26⟩
/-- HIF_SB_BASE_HI, bits [31:0]. -/
def F.sbBaseHi : F := ⟨0x2014, 0, 32⟩
/-- HIF_CMD_BASE_LO, bits [31:6]. -/
def F.cmdBaseLo : F := ⟨0x2018, 6, 26⟩
/-- HIF_CMD_BASE_HI, bits [31:0]. -/
def F.cmdBaseHi : F := ⟨0x201c, 0, 32⟩
/-- HIF_CMP_BASE_LO, bits [31:4]. -/
def F.cmpBaseLo : F := ⟨0x2020, 4, 28⟩
/-- HIF_CMP_BASE_HI, bits [31:0]. -/
def F.cmpBaseHi : F := ⟨0x2024, 0, 32⟩
/-- HIF_EVT_BASE_LO, bits [31:4]. -/
def F.evtBaseLo : F := ⟨0x2028, 4, 28⟩
/-- HIF_EVT_BASE_HI, bits [31:0]. -/
def F.evtBaseHi : F := ⟨0x202c, 0, 32⟩
/-- HIF_RING_SIZE, bits [3:0]. -/
def F.cmdLog2 : F := ⟨0x2030, 0, 4⟩
/-- HIF_RING_SIZE, bits [11:8]. -/
def F.cmpLog2 : F := ⟨0x2030, 8, 4⟩
/-- HIF_RING_SIZE, bits [19:16]. -/
def F.evtLog2 : F := ⟨0x2030, 16, 4⟩
/-- HIF_POLL, bits [10:0]. -/
def F.pollUs : F := ⟨0x2034, 0, 11⟩
/-- HIF_IRQ, bits [7:0]. -/
def F.holdoffUs : F := ⟨0x2038, 0, 8⟩
/-- HIF_IRQ, bits [8:8]. -/
def F.cmpEvery : F := ⟨0x2038, 8, 1⟩
/-- HIF_STICKY, bits [15:0]. -/
def F.stickyRanges : F := ⟨0x203c, 0, 16⟩
/-- HIF_STICKY, bits [31:16]. -/
def F.stickyCount : F := ⟨0x203c, 16, 16⟩
/-- HIF_EVT_DROP, bits [31:0]. -/
def F.evtDrop : F := ⟨0x2040, 0, 32⟩
/-- HIF_OVERRUN, bits [31:0]. -/
def F.hifOverrun : F := ⟨0x2044, 0, 32⟩
/-- HIF_CMP_SEQ, bits [15:0]. -/
def F.cmpSeq : F := ⟨0x2048, 0, 16⟩
/-- HIF_CMP_SEQ, bits [31:16]. -/
def F.evtSeq : F := ⟨0x2048, 16, 16⟩
/-- HIF_POLLS, bits [31:0]. -/
def F.hifPolls : F := ⟨0x204c, 0, 32⟩
/-- CH_STATE, bits [2:0]. -/
def F.chState (k : Nat) : F := ⟨0x2400 + 0x10 * k, 0, 3⟩
/-- CH_STATE, bits [3:3]. -/
def F.chPending (k : Nat) : F := ⟨0x2400 + 0x10 * k, 3, 1⟩
/-- CH_STATE, bits [15:8]. -/
def F.chLastErr (k : Nat) : F := ⟨0x2400 + 0x10 * k, 8, 8⟩
/-- CH_STATE, bits [23:16]. -/
def F.chRingIdx (k : Nat) : F := ⟨0x2400 + 0x10 * k, 16, 8⟩
/-- CH_DESC, bits [31:0]. -/
def F.chDesc (k : Nat) : F := ⟨0x2404 + 0x10 * k, 0, 32⟩
/-- CH_OVERRUN, bits [15:0]. -/
def F.chOverrun (k : Nat) : F := ⟨0x2408 + 0x10 * k, 0, 16⟩
/-- CH_OVERRUN, bits [31:16]. -/
def F.chSkip (k : Nat) : F := ⟨0x2408 + 0x10 * k, 16, 16⟩
/-- CH_UNITS, bits [23:0]. -/
def F.chUnits (k : Nat) : F := ⟨0x240c + 0x10 * k, 0, 24⟩
/-- CH_UNITS, bits [31:24]. -/
def F.chEmpty (k : Nat) : F := ⟨0x240c + 0x10 * k, 24, 8⟩
/-- TIMER_FIRST, bits [12:0]. -/
def F.tmFirst (k : Nat) : F := ⟨0x2600 + 0x10 * k, 0, 13⟩
/-- TIMER_FIRST, bits [28:16]. -/
def F.tmStep (k : Nat) : F := ⟨0x2600 + 0x10 * k, 16, 13⟩
/-- TIMER_COUNT, bits [12:0]. -/
def F.tmCount (k : Nat) : F := ⟨0x2604 + 0x10 * k, 0, 13⟩
/-- TIMER_COUNT, bits [31:31]. -/
def F.tmEnable (k : Nat) : F := ⟨0x2604 + 0x10 * k, 31, 1⟩
/-- TIMER_FIRES, bits [31:0]. -/
def F.tmFires (k : Nat) : F := ⟨0x2608 + 0x10 * k, 0, 32⟩
/-- FTIMER_PERIOD, bits [31:0]. -/
def F.ftPeriod (k : Nat) : F := ⟨0x2680 + 0x10 * k, 0, 32⟩
/-- FTIMER_CTRL, bits [0:0]. -/
def F.ftEnable (k : Nat) : F := ⟨0x2684 + 0x10 * k, 0, 1⟩
/-- FTIMER_CTRL, bits [1:1]. -/
def F.ftOneshot (k : Nat) : F := ⟨0x2684 + 0x10 * k, 1, 1⟩
/-- FTIMER_FIRES, bits [31:0]. -/
def F.ftFires (k : Nat) : F := ⟨0x2688 + 0x10 * k, 0, 32⟩
/-- SCB_RGN_BASE, bits [4:0]. -/
def F.rgnFlags (k : Nat) : F := ⟨0x3000 + 0x8 * k, 0, 5⟩
/-- SCB_RGN_BASE, bits [30:12]. -/
def F.rgnBase (k : Nat) : F := ⟨0x3000 + 0x8 * k, 12, 19⟩
/-- SCB_RGN_SIZE, bits [19:0]. -/
def F.rgnSize (k : Nat) : F := ⟨0x3004 + 0x8 * k, 0, 20⟩
/-- SCB_VIOL_ADDR, bits [31:0]. -/
def F.violAddr : F := ⟨0x3300, 0, 32⟩
/-- SCB_VIOL_INFO, bits [6:0]. -/
def F.violInfo : F := ⟨0x3304, 0, 7⟩
/-- SCB_VIOL_COUNT, bits [31:0]. -/
def F.violCount : F := ⟨0x3308, 0, 32⟩
/-- SCB_SAT_COUNT, bits [31:0]. -/
def F.satCount : F := ⟨0x330c, 0, 32⟩
/-- SCB_UE_COUNT, bits [31:0]. -/
def F.scbUe : F := ⟨0x3310, 0, 32⟩
/-- DRC_STATUS, bits [0:0]. -/
def F.initDone : F := ⟨0x3400, 0, 1⟩
/-- DRC_STATUS, bits [1:1]. -/
def F.selfRefresh : F := ⟨0x3400, 1, 1⟩
/-- DRC_STATUS, bits [2:2]. -/
def F.scrubRun : F := ⟨0x3400, 2, 1⟩
/-- DRC_STATUS, bits [3:3]. -/
def F.loadHigh : F := ⟨0x3400, 3, 1⟩
/-- DRC_CE_COUNT, bits [31:0]. -/
def F.ceCount : F := ⟨0x3404, 0, 32⟩
/-- DRC_UE_COUNT, bits [31:0]. -/
def F.ueCount : F := ⟨0x3408, 0, 32⟩
/-- DRC_ERR_ADDR, bits [30:5]. -/
def F.errAddr : F := ⟨0x340c, 5, 26⟩
/-- DRC_ERR_ADDR, bits [31:31]. -/
def F.errUe : F := ⟨0x340c, 31, 1⟩
/-- DRC_SCRUB, bits [7:0]. -/
def F.scrubH : F := ⟨0x3410, 0, 8⟩
/-- DRC_LOAD, bits [15:0]. -/
def F.drcLoad : F := ⟨0x3414, 0, 16⟩
/-- DRC_BW_RD, bits [31:0]. -/
def F.bwRd : F := ⟨0x3418, 0, 32⟩
/-- DRC_BW_WR, bits [31:0]. -/
def F.bwWr : F := ⟨0x341c, 0, 32⟩
/-- DRC_LATE, bits [31:0]. -/
def F.drcLate : F := ⟨0x3420, 0, 32⟩
/-- CVU_SEL, bits [2:0]. -/
def F.selL : F := ⟨0x3800, 0, 3⟩
/-- CVU_SEL, bits [6:4]. -/
def F.selT : F := ⟨0x3800, 4, 3⟩
/-- CVU_SEL, bits [10:8]. -/
def F.selD : F := ⟨0x3800, 8, 3⟩
/-- CVU_SEL, bits [14:12]. -/
def F.selS : F := ⟨0x3800, 12, 3⟩
/-- CVU_SEL, bits [18:16]. -/
def F.selB : F := ⟨0x3800, 16, 3⟩
/-- CVU_SEL, bits [22:20]. -/
def F.selH : F := ⟨0x3800, 20, 3⟩
/-- CVU_FAIL, bits [31:0]. -/
def F.cvuFail (k : Nat) : F := ⟨0x3810 + 0x10 * k, 0, 32⟩
/-- CVU_REPEAT, bits [31:0]. -/
def F.cvuRepeat (k : Nat) : F := ⟨0x3814 + 0x10 * k, 0, 32⟩
/-- CVU_GAP, bits [31:0]. -/
def F.cvuGap (k : Nat) : F := ⟨0x3818 + 0x10 * k, 0, 32⟩
/-- CVU_PASS, bits [31:0]. -/
def F.cvuPass (k : Nat) : F := ⟨0x381c + 0x10 * k, 0, 32⟩
/-- TMG_CTRL, bits [0:0]. -/
def F.run : F := ⟨0x4000, 0, 1⟩
/-- TMG_ACTIVE, bits [10:0]. -/
def F.halfW : F := ⟨0x4004, 0, 11⟩
/-- TMG_ACTIVE, bits [27:16]. -/
def F.halfH : F := ⟨0x4004, 16, 12⟩
/-- TMG_MODE, bits [4:0]. -/
def F.slowId : F := ⟨0x4008, 0, 5⟩
/-- TMG_MODE, bits [8:8]. -/
def F.variable : F := ⟨0x4008, 8, 1⟩
/-- TMG_MODE, bits [20:16]. -/
def F.modeId : F := ⟨0x4008, 16, 5⟩
/-- TMG_VTOTAL, bits [12:0]. -/
def F.vTotal : F := ⟨0x400c, 0, 13⟩
/-- TMG_STATUS, bits [0:0]. -/
def F.tmgRunning : F := ⟨0x4010, 0, 1⟩
/-- TMG_STATUS, bits [1:1]. -/
def F.tmgWaiting : F := ⟨0x4010, 1, 1⟩
/-- TMG_STATUS, bits [2:2]. -/
def F.tmgExcess : F := ⟨0x4010, 2, 1⟩
/-- TMG_STATUS, bits [3:3]. -/
def F.frozen : F := ⟨0x4010, 3, 1⟩
/-- TMG_STATUS, bits [4:4]. -/
def F.blanked : F := ⟨0x4010, 4, 1⟩
/-- TMG_STATUS, bits [5:5]. -/
def F.teOk : F := ⟨0x4010, 5, 1⟩
/-- TMG_STATUS, bits [31:16]. -/
def F.curLine : F := ⟨0x4010, 16, 16⟩
/-- TMG_FRAME_LO, bits [31:0]. -/
def F.frameLo : F := ⟨0x4014, 0, 32⟩
/-- TMG_FRAME_HI, bits [15:0]. -/
def F.frameHi : F := ⟨0x4018, 0, 16⟩
/-- TMG_START_LO, bits [31:0]. -/
def F.startLo : F := ⟨0x401c, 0, 32⟩
/-- TMG_START_HI, bits [31:0]. -/
def F.startHi : F := ⟨0x4020, 0, 32⟩
/-- TMG_PLACE, bits [15:0]. -/
def F.placeQ : F := ⟨0x4024, 0, 16⟩
/-- TMG_PLACE, bits [24:16]. -/
def F.placeNs : F := ⟨0x4024, 16, 9⟩
/-- TMG_LINE, bits [23:0]. -/
def F.lineCclk : F := ⟨0x4028, 0, 24⟩
/-- TMG_TE_CFG, bits [0:0]. -/
def F.teEdge : F := ⟨0x402c, 0, 1⟩
/-- TMG_TE_CFG, bits [31:16]. -/
def F.teTimeout : F := ⟨0x402c, 16, 16⟩
/-- TMG_TE_PERIOD, bits [23:0]. -/
def F.tePeriod : F := ⟨0x4030, 0, 24⟩
/-- TMG_SHOWN, bits [31:0]. -/
def F.tmgShown : F := ⟨0x4034, 0, 32⟩
/-- TMG_REPEAT, bits [31:0]. -/
def F.tmgRepeat : F := ⟨0x4038, 0, 32⟩
/-- TMG_DROP, bits [31:0]. -/
def F.tmgDrop : F := ⟨0x403c, 0, 32⟩
/-- TMG_LATE, bits [31:0]. -/
def F.tmgLate : F := ⟨0x4040, 0, 32⟩
/-- TMG_FORCED, bits [31:0]. -/
def F.tmgForced : F := ⟨0x4044, 0, 32⟩
/-- TMG_TE_LOST, bits [31:0]. -/
def F.tmgTeLost : F := ⟨0x4048, 0, 32⟩
/-- LYR_FIELDS, bits [0:0]. -/
def F.heartEn : F := ⟨0x4800, 0, 1⟩
/-- LYR_FIELDS, bits [1:1]. -/
def F.topEn : F := ⟨0x4800, 1, 1⟩
/-- LYR_FIELDS, bits [4:2]. -/
def F.eotfSel : F := ⟨0x4800, 2, 3⟩
/-- LYR_FIELDS, bits [5:5]. -/
def F.tableBank : F := ⟨0x4800, 5, 1⟩
/-- LYR_FIELDS, bits [27:16]. -/
def F.brightness : F := ⟨0x4800, 16, 12⟩
/-- LYR_STATUS, bits [0:0]. -/
def F.hOn : F := ⟨0x4804, 0, 1⟩
/-- LYR_STATUS, bits [1:1]. -/
def F.tOn : F := ⟨0x4804, 1, 1⟩
/-- LYR_STATUS, bits [2:2]. -/
def F.hLatch : F := ⟨0x4804, 2, 1⟩
/-- LYR_STATUS, bits [3:3]. -/
def F.tLatch : F := ⟨0x4804, 3, 1⟩
/-- LYR_STATUS, bits [15:8]. -/
def F.hRun : F := ⟨0x4804, 8, 8⟩
/-- LYR_STATUS, bits [23:16]. -/
def F.tRun : F := ⟨0x4804, 16, 8⟩
/-- LYR_WIN0, bits [10:0]. -/
def F.winX (k : Nat) : F := ⟨0x4810 + 0x30 * k, 0, 11⟩
/-- LYR_WIN0, bits [27:16]. -/
def F.winY (k : Nat) : F := ⟨0x4810 + 0x30 * k, 16, 12⟩
/-- LYR_WIN1, bits [10:0]. -/
def F.winW (k : Nat) : F := ⟨0x4814 + 0x30 * k, 0, 11⟩
/-- LYR_WIN1, bits [27:16]. -/
def F.winH (k : Nat) : F := ⟨0x4814 + 0x30 * k, 16, 12⟩
/-- LYR_H_FMT, bits [2:0]. -/
def F.hFmt : F := ⟨0x4818, 0, 3⟩
/-- LYR_H_FMT, bits [4:4]. -/
def F.depth10 : F := ⟨0x4818, 4, 1⟩
/-- LYR_H_FMT, bits [5:5]. -/
def F.fullRange : F := ⟨0x4818, 5, 1⟩
/-- LYR_H_FMT, bits [7:6]. -/
def F.hMatrix : F := ⟨0x4818, 6, 2⟩
/-- LYR_H_FMT, bits [8:8]. -/
def F.siteH : F := ⟨0x4818, 8, 1⟩
/-- LYR_H_FMT, bits [9:9]. -/
def F.siteV : F := ⟨0x4818, 9, 1⟩
/-- LYR_H_FMT, bits [23:16]. -/
def F.hGalpha : F := ⟨0x4818, 16, 8⟩
/-- LYR_T_FMT, bits [0:0]. -/
def F.premul : F := ⟨0x4848, 0, 1⟩
/-- LYR_T_FMT, bits [23:16]. -/
def F.tGalpha : F := ⟨0x4848, 16, 8⟩
/-- LYR_FILL, bits [3:0]. -/
def F.fillCh (k : Nat) : F := ⟨0x481c + 0x30 * k, 0, 4⟩
/-- LYR_FILL, bits [14:8]. -/
def F.lpu (k : Nat) : F := ⟨0x481c + 0x30 * k, 8, 7⟩
/-- LYR_FILL, bits [23:16]. -/
def F.lbLines (k : Nat) : F := ⟨0x481c + 0x30 * k, 16, 8⟩
/-- LYR_FILL, bits [31:24]. -/
def F.latchN (k : Nat) : F := ⟨0x481c + 0x30 * k, 24, 8⟩
/-- LYR_H_P, bits [17:0]. -/
def F.hBase32 (k : Nat) : F := ⟨0x4820 + 0x4 * k, 0, 18⟩
/-- LYR_H_P, bits [31:24]. -/
def F.hPitch32 (k : Nat) : F := ⟨0x4820 + 0x4 * k, 24, 8⟩
/-- LYR_T_P0, bits [17:0]. -/
def F.tBase32 : F := ⟨0x4850, 0, 18⟩
/-- LYR_T_P0, bits [31:24]. -/
def F.tPitch32 : F := ⟨0x4850, 24, 8⟩
/-- LYR_CM, bits [15:0]. -/
def F.cmCoef (k : Nat) : F := ⟨0x4880 + 0x4 * k, 0, 16⟩
/-- LYR_UNDERRUN, bits [31:0]. -/
def F.lyrUnderrun (k : Nat) : F := ⟨0x48c0 + 0x4 * k, 0, 32⟩
/-- COR_CFG, bits [0:0]. -/
def F.corEn : F := ⟨0x5000, 0, 1⟩
/-- COR_CFG, bits [1:1]. -/
def F.corCross : F := ⟨0x5000, 1, 1⟩
/-- COR_CFG, bits [2:2]. -/
def F.corFold : F := ⟨0x5000, 2, 1⟩
/-- COR_CFG, bits [3:3]. -/
def F.corSeam : F := ⟨0x5000, 3, 1⟩
/-- COR_CFG, bits [4:4]. -/
def F.corDefect : F := ⟨0x5000, 4, 1⟩
/-- COR_STATUS, bits [0:0]. -/
def F.keyOk : F := ⟨0x5004, 0, 1⟩
/-- COR_STATUS, bits [1:1]. -/
def F.mapOk : F := ⟨0x5004, 1, 1⟩
/-- COR_STATUS, bits [2:2]. -/
def F.inuse : F := ⟨0x5004, 2, 1⟩
/-- COR_STATUS, bits [3:3]. -/
def F.swapBit : F := ⟨0x5004, 3, 1⟩
/-- COR_STATUS, bits [4:4]. -/
def F.building : F := ⟨0x5004, 4, 1⟩
/-- COR_STATUS, bits [9:8]. -/
def F.mismatch : F := ⟨0x5004, 8, 2⟩
/-- COR_SEAM, bits [15:0]. -/
def F.flatRange : F := ⟨0x5008, 0, 16⟩
/-- COR_DEFECTS, bits [12:0]. -/
def F.defectCount : F := ⟨0x500c, 0, 13⟩
/-- COR_UNITY, bits [31:0]. -/
def F.corUnity : F := ⟨0x5010, 0, 32⟩
/-- WEAR_CFG, bits [0:0]. -/
def F.wearEn : F := ⟨0x5040, 0, 1⟩
/-- WEAR_CFG, bits [12:8]. -/
def F.foldHour : F := ⟨0x5040, 8, 5⟩
/-- WEAR_CFG, bits [31:16]. -/
def F.gmax : F := ⟨0x5040, 16, 16⟩
/-- WEAR_TARGET0, bits [15:0]. -/
def F.targetR : F := ⟨0x5044, 0, 16⟩
/-- WEAR_TARGET0, bits [31:16]. -/
def F.targetG : F := ⟨0x5044, 16, 16⟩
/-- WEAR_TARGET1, bits [15:0]. -/
def F.targetB : F := ⟨0x5048, 0, 16⟩
/-- WEAR_STATUS, bits [4:0]. -/
def F.nextPart : F := ⟨0x504c, 0, 5⟩
/-- WEAR_STATUS, bits [8:8]. -/
def F.overdue : F := ⟨0x504c, 8, 1⟩
/-- WEAR_STATUS, bits [31:16]. -/
def F.headroom : F := ⟨0x504c, 16, 16⟩
/-- WEAR_STRIP, bits [22:5]. -/
def F.stripBase : F := ⟨0x5050, 5, 18⟩
/-- WEAR_SAMPLES, bits [31:0]. -/
def F.wearSamples : F := ⟨0x5054, 0, 32⟩
/-- WEAR_SKIPPED, bits [31:0]. -/
def F.wearSkipped : F := ⟨0x5058, 0, 32⟩
/-- ODD_CFG, bits [0:0]. -/
def F.odEn : F := ⟨0x5800, 0, 1⟩
/-- ODD_CFG, bits [1:1]. -/
def F.dithEn : F := ⟨0x5800, 1, 1⟩
/-- ODD_CFG, bits [2:2]. -/
def F.temporal : F := ⟨0x5800, 2, 1⟩
/-- ODD_CFG, bits [5:4]. -/
def F.depth : F := ⟨0x5800, 4, 2⟩
/-- ODD_ORIGIN, bits [1:0]. -/
def F.oddOx : F := ⟨0x5804, 0, 2⟩
/-- ODD_ORIGIN, bits [17:16]. -/
def F.oddOy : F := ⟨0x5804, 16, 2⟩
/-- ODD_STATUS, bits [1:0]. -/
def F.oddPhase : F := ⟨0x5808, 0, 2⟩
/-- ODD_STATUS, bits [2:2]. -/
def F.echoValid : F := ⟨0x5808, 2, 1⟩
/-- ODD_STATUS, bits [15:8]. -/
def F.ditherPhase : F := ⟨0x5808, 8, 8⟩
/-- ODD_ECHO_SKIP, bits [31:0]. -/
def F.echoSkip : F := ⟨0x580c, 0, 32⟩
/-- ODD_CLIP, bits [31:0]. -/
def F.oddClip : F := ⟨0x5810, 0, 32⟩
/-- LDB_CTRL, bits [0:0]. -/
def F.ldbEn : F := ⟨0x6000, 0, 1⟩
/-- LDB_CTRL, bits [1:1]. -/
def F.scanOwn : F := ⟨0x6000, 1, 1⟩
/-- LDB_CFG, bits [1:0]. -/
def F.ldbCh : F := ⟨0x6004, 0, 2⟩
/-- LDB_CFG, bits [13:8]. -/
def F.ldbNM1 : F := ⟨0x6004, 8, 6⟩
/-- LDB_LANES, bits [31:0]. -/
def F.ldbLanes : F := ⟨0x6008, 0, 32⟩
/-- LDB_SCAN, bits [5:0]. -/
def F.sM1 : F := ⟨0x600c, 0, 6⟩
/-- LDB_SCAN, bits [15:8]. -/
def F.offGclk : F := ⟨0x600c, 8, 8⟩
/-- LDB_SCAN, bits [23:16]. -/
def F.addrDly : F := ⟨0x600c, 16, 8⟩
/-- LDB_STAGE, bits [22:5]. -/
def F.stageBase : F := ⟨0x6010, 5, 18⟩
/-- LDB_STAGE, bits [31:24]. -/
def F.stageLines : F := ⟨0x6010, 24, 8⟩
/-- LDB_STATUS, bits [1:0]. -/
def F.ldbBank : F := ⟨0x6014, 0, 2⟩
/-- LDB_STATUS, bits [2:2]. -/
def F.echoBusy : F := ⟨0x6014, 2, 1⟩
/-- LDB_STATUS, bits [15:8]. -/
def F.ldbSpan : F := ⟨0x6014, 8, 8⟩
/-- LDB_LOAD, bits [31:0]. -/
def F.ldbLoad : F := ⟨0x6018, 0, 32⟩
/-- LDB_BANK_SKIP, bits [31:0]. -/
def F.ldbBankSkip : F := ⟨0x601c, 0, 32⟩
/-- LDB_ECHO_TO, bits [31:0]. -/
def F.echoTo : F := ⟨0x6020, 0, 32⟩
/-- LDB_ECHO_FAIL, bits [31:0]. -/
def F.echoFail : F := ⟨0x6024, 0, 32⟩
/-- LDB_ECHO_REPEAT, bits [31:0]. -/
def F.echoRepeat : F := ⟨0x6028, 0, 32⟩
/-- PID_CFG, bits [0:0]. -/
def F.pidFast : F := ⟨0x6030, 0, 1⟩
/-- PID_CFG, bits [14:8]. -/
def F.pidAddr : F := ⟨0x6030, 8, 7⟩
/-- PID_STATUS, bits [0:0]. -/
def F.recordOk : F := ⟨0x6034, 0, 1⟩
/-- PID_STATUS, bits [1:1]. -/
def F.pidBusy : F := ⟨0x6034, 1, 1⟩
/-- BLT_STATUS, bits [0:0]. -/
def F.bltFrozen : F := ⟨0x6800, 0, 1⟩
/-- BLT_STATUS, bits [15:8]. -/
def F.bltSetter : F := ⟨0x6800, 8, 8⟩
/-- BLT_RESULT, bits [15:0]. -/
def F.bltMismatch : F := ⟨0x6804, 0, 16⟩
/-- BLT_RESULT, bits [31:16]. -/
def F.bltArmed : F := ⟨0x6804, 16, 16⟩
/-- BLT_PEER, bits [15:0]. -/
def F.peerMismatch : F := ⟨0x6808, 0, 16⟩
/-- BLT_PEER, bits [31:16]. -/
def F.peerFrame : F := ⟨0x6808, 16, 16⟩
/-- BLT_R_CFG, bits [1:0]. -/
def F.bltTap (k : Nat) : F := ⟨0x6840 + 0x10 * k, 0, 2⟩
/-- BLT_R_CFG, bits [2:2]. -/
def F.bltFreeze (k : Nat) : F := ⟨0x6840 + 0x10 * k, 2, 1⟩
/-- BLT_R_CFG, bits [5:4]. -/
def F.bltPhase (k : Nat) : F := ⟨0x6840 + 0x10 * k, 4, 2⟩
/-- BLT_R_VALUE, bits [31:0]. -/
def F.bltValue (k : Nat) : F := ⟨0x6844 + 0x10 * k, 0, 32⟩
/-- BLT_MISMATCH, bits [31:0]. -/
def F.bltCount (k : Nat) : F := ⟨0x6848 + 0x10 * k, 0, 32⟩
/-- TRM_CFG, bits [2:0]. -/
def F.trmAuto : F := ⟨0x6c00, 0, 3⟩
/-- TRM_CFG, bits [12:8]. -/
def F.trmDelta : F := ⟨0x6c00, 8, 5⟩
/-- TRM_CFG, bits [21:16]. -/
def F.deskewIc : F := ⟨0x6c00, 16, 6⟩
/-- TRM_STATUS, bits [7:0]. -/
def F.trmKinds : F := ⟨0x6c04, 0, 8⟩
/-- TRM_STATUS, bits [8:8]. -/
def F.trmWaiting : F := ⟨0x6c04, 8, 1⟩
/-- TRM_TEMP, bits [23:0]. -/
def F.trmTemps : F := ⟨0x6c08, 0, 24⟩
/-- TRM_IREF, bits [11:0]. -/
def F.irefCode : F := ⟨0x6c0c, 0, 12⟩
/-- TRM_FAIL_LANES, bits [31:0]. -/
def F.failLanes : F := ⟨0x6c10, 0, 32⟩
/-- TRM_FAIL_INPUTS, bits [4:0]. -/
def F.failThresh : F := ⟨0x6c14, 0, 5⟩
/-- TRM_FAIL_INPUTS, bits [11:8]. -/
def F.failRxoff : F := ⟨0x6c14, 8, 4⟩
/-- TRM_FAIL_INPUTS, bits [12:12]. -/
def F.failIref : F := ⟨0x6c14, 12, 1⟩
/-- TRM_COUNT, bits [15:0]. -/
def F.trmRuns : F := ⟨0x6c18, 0, 16⟩
/-- TRM_COUNT, bits [31:16]. -/
def F.trmFails : F := ⟨0x6c18, 16, 16⟩
/-- CST_STATUS, bits [0:0]. -/
def F.cstReady : F := ⟨0x7000, 0, 1⟩
/-- CST_STATUS, bits [1:1]. -/
def F.cstBusy : F := ⟨0x7000, 1, 1⟩
/-- CST_STATUS, bits [2:2]. -/
def F.cstSuspended : F := ⟨0x7000, 2, 1⟩
/-- CST_STATUS, bits [3:3]. -/
def F.refreshRun : F := ⟨0x7000, 3, 1⟩
/-- CST_STATUS, bits [4:4]. -/
def F.deviceFail : F := ⟨0x7000, 4, 1⟩
/-- CST_STATUS, bits [5:5]. -/
def F.aValid : F := ⟨0x7000, 5, 1⟩
/-- CST_STATUS, bits [6:6]. -/
def F.bValid : F := ⟨0x7000, 6, 1⟩
/-- CST_MAP_GEN, bits [15:0]. -/
def F.genA : F := ⟨0x7004, 0, 16⟩
/-- CST_MAP_GEN, bits [31:16]. -/
def F.genB : F := ⟨0x7004, 16, 16⟩
/-- CST_REFRESH_LAST, bits [31:0]. -/
def F.refreshLast : F := ⟨0x7008, 0, 32⟩
/-- CST_CFG, bits [0:0]. -/
def F.refreshEn : F := ⟨0x700c, 0, 1⟩
/-- CST_CFG, bits [15:8]. -/
def F.suspendMs : F := ⟨0x700c, 8, 8⟩
/-- CST_ERASES, bits [31:0]. -/
def F.cstErases : F := ⟨0x7010, 0, 32⟩
/-- CST_SUSPENDS, bits [31:0]. -/
def F.cstSuspends : F := ⟨0x7014, 0, 32⟩
/-- CST_WRITE_FAIL, bits [31:0]. -/
def F.cstWriteFail : F := ⟨0x7018, 0, 32⟩
/-- STI_STATUS, bits [1:0]. -/
def F.stiState : F := ⟨0x7400, 0, 2⟩
/-- STI_STATUS, bits [2:2]. -/
def F.locked : F := ⟨0x7400, 2, 1⟩
/-- STI_STATUS, bits [3:3]. -/
def F.leader : F := ⟨0x7400, 3, 1⟩
/-- STI_STATUS, bits [4:4]. -/
def F.peerUnknown : F := ⟨0x7400, 4, 1⟩
/-- STI_STATUS, bits [5:5]. -/
def F.cutOff : F := ⟨0x7400, 5, 1⟩
/-- STI_STATUS, bits [15:8]. -/
def F.stiLatency : F := ⟨0x7400, 8, 8⟩
/-- STI_CFG, bits [15:0]. -/
def F.holdMs : F := ⟨0x7404, 0, 16⟩
/-- STI_CFG, bits [16:16]. -/
def F.autoExit : F := ⟨0x7404, 16, 1⟩
/-- STI_CHECK_FAIL, bits [31:0]. -/
def F.stiCheckFail : F := ⟨0x7408, 0, 32⟩
/-- STI_FWD_LOST, bits [31:0]. -/
def F.stiFwdLost : F := ⟨0x740c, 0, 32⟩
/-- STI_DOWN_COUNT, bits [31:0]. -/
def F.stiDownCount : F := ⟨0x7410, 0, 32⟩
/-- EVT_MASK, bits [31:0]. -/
def F.evtMask (k : Nat) : F := ⟨0x7800 + 0x4 * k, 0, 32⟩
/-- EVT_LAST, bits [7:0]. -/
def F.evtCode : F := ⟨0x7820, 0, 8⟩
/-- EVT_LAST, bits [9:8]. -/
def F.evtSev : F := ⟨0x7820, 8, 2⟩
/-- EVT_LAST_DETAIL, bits [31:0]. -/
def F.evtDetail : F := ⟨0x7824, 0, 32⟩
/-- EVT_RAISED, bits [31:0]. -/
def F.evtRaised (k : Nat) : F := ⟨0x7840 + 0x4 * k, 0, 32⟩

/-- One row of the map: `n` copies `step` bytes apart from `off`, and for each access code of R4 the bits that carry it.
Bits in none of the masks are reserved (R5). -/
structure RegRow where
  off  : Nat
  n    : Nat
  step : Nat
  rw   : Nat
  rws  : Nat
  w1c  : Nat
  rc   : Nat
  wo   : Nat
  ro   : Nat
deriving DecidableEq, Repr

/-- Rows of the map from offset 0x0000 (R383). -/
def regRows0 : List RegRow := [
  ⟨0x0000, 1, 0x4, 0x0, 0x0, 0x0, 0x0, 0x0, 0xffffffff⟩,
  ⟨0x0004, 1, 0x4, 0x0, 0x0, 0x0, 0x0, 0x0, 0x7⟩,
  ⟨0x0008, 1, 0x4, 0x0, 0x0, 0x0, 0x0, 0xffff, 0x0⟩,
  ⟨0x000c, 1, 0x4, 0x0, 0x0, 0x0, 0x0, 0x0, 0xffff⟩,
  ⟨0x0400, 1, 0x4, 0x0, 0x0, 0x0, 0x0, 0x0, 0xff⟩,
  ⟨0x0404, 1, 0x4, 0x0, 0x0, 0x0, 0x0, 0x0, 0xffffff⟩,
  ⟨0x0408, 1, 0x4, 0xffffff, 0x0, 0x0, 0x0, 0x0, 0x0⟩,
  ⟨0x040c, 1, 0x4, 0xf, 0x0, 0x0, 0x0, 0x0, 0x0⟩,
  ⟨0x0410, 1, 0x4, 0x7, 0x0, 0x0, 0x0, 0x0, 0x0⟩,
  ⟨0x0414, 1, 0x4, 0x0, 0x0, 0x0, 0x0, 0x0, 0xffffffff⟩,
  ⟨0x0418, 1, 0x4, 0x0, 0x0, 0x0, 0x0, 0x0, 0xffffffff⟩,
  ⟨0x0800, 1, 0x4, 0x0, 0x0, 0x0, 0x0, 0x0, 0xff⟩,
  ⟨0x0804, 1, 0x4, 0x0, 0x0, 0x0, 0x0, 0x0, 0xffffffff⟩,
  ⟨0x0808, 1, 0x4, 0x0, 0x0, 0x0, 0x0, 0x0, 0xffffffff⟩,
  ⟨0x080c, 1, 0x4, 0x3, 0x0, 0x0, 0x0, 0x0, 0x0⟩,
  ⟨0x0810, 1, 0x4, 0x0, 0x0, 0x7f, 0x0, 0x0, 0x0⟩,
  ⟨0x0814, 1, 0x4, 0x0, 0x0, 0x0, 0x0, 0x0, 0xffffffff⟩,
  ⟨0x0818, 1, 0x4, 0x0, 0x0, 0x0, 0x0, 0x0, 0xffffffff⟩,
  ⟨0x081c, 1, 0x4, 0x0, 0x0, 0x0, 0x0, 0x0, 0xffffffff⟩,
  ⟨0x0820, 1, 0x4, 0x0, 0x0, 0x0, 0x0, 0x0, 0xffff⟩,
  ⟨0x0840, 1, 0x4, 0x3f03, 0x0, 0x0, 0x0, 0x0, 0x0⟩,
  ⟨0x0844, 1, 0x4, 0xffffff, 0x0, 0x0, 0x0, 0x0, 0x0⟩,
  ⟨0x0848, 1, 0x4, 0x0, 0x0, 0x0, 0x0, 0x0, 0x3ff⟩,
  ⟨0x084c, 1, 0x4, 0x0, 0x0, 0x0, 0x0, 0x0, 0xffffffff⟩]
/-- Rows of the map from offset 0x1000 (R383). -/
def regRows1 : List RegRow := [
  ⟨0x1000, 1, 0x4, 0x1f, 0x0, 0x0, 0x0, 0x0, 0x0⟩,
  ⟨0x1004, 1, 0x4, 0x1f0f, 0x0, 0x0, 0x0, 0x0, 0x0⟩,
  ⟨0x1008, 1, 0x4, 0xffffffff, 0x0, 0x0, 0x0, 0x0, 0x0⟩,
  ⟨0x1040, 4, 0x20, 0x0, 0x0, 0x0, 0x0, 0x0, 0xff⟩,
  ⟨0x1044, 4, 0x20, 0x0, 0x0, 0x0, 0x0, 0x0, 0x1f0f1f0f⟩,
  ⟨0x1048, 4, 0x20, 0x0, 0x0, 0x0, 0x0, 0x0, 0xffffffff⟩,
  ⟨0x104c, 4, 0x20, 0x0, 0x0, 0x0, 0xffffffff, 0x0, 0x0⟩,
  ⟨0x1050, 4, 0x20, 0x0, 0x0, 0x0, 0x0, 0x0, 0xffffffff⟩,
  ⟨0x1054, 4, 0x20, 0x0, 0x0, 0x0, 0x0, 0x0, 0xffff⟩,
  ⟨0x1058, 4, 0x20, 0x0, 0x0, 0x0, 0x0, 0x0, 0xffffffff⟩,
  ⟨0x1800, 1, 0x4, 0xff03ff, 0x0, 0x0, 0x0, 0x0, 0x0⟩,
  ⟨0x1804, 1, 0x4, 0x0, 0x0, 0x0, 0x0, 0x0, 0x3f⟩,
  ⟨0x1808, 1, 0x4, 0x0, 0x0, 0x0, 0x0, 0x0, 0xffffffff⟩,
  ⟨0x180c, 1, 0x4, 0x0, 0x0, 0x0, 0x0, 0x0, 0xffffffff⟩,
  ⟨0x1810, 1, 0x4, 0x0, 0x0, 0x0, 0xffffffff, 0x0, 0x0⟩,
  ⟨0x1814, 1, 0x4, 0x0, 0x0, 0x0, 0xffffffff, 0x0, 0x0⟩,
  ⟨0x1818, 1, 0x4, 0x0, 0x0, 0x0, 0xffffffff, 0x0, 0x0⟩,
  ⟨0x181c, 1, 0x4, 0x0, 0x0, 0x0, 0xffffffff, 0x0, 0x0⟩,
  ⟨0x1820, 1, 0x4, 0x0, 0x0, 0x0, 0xffffffff, 0x0, 0x0⟩,
  ⟨0x1824, 1, 0x4, 0x0, 0x0, 0x0, 0xffffffff, 0x0, 0x0⟩,
  ⟨0x1828, 1, 0x4, 0x0, 0x0, 0x0, 0xffffffff, 0x0, 0x0⟩,
  ⟨0x182c, 1, 0x4, 0x0, 0x0, 0x0, 0xffffffff, 0x0, 0x0⟩,
  ⟨0x1830, 1, 0x4, 0x0, 0x0, 0x0, 0xffffffff, 0x0, 0x0⟩,
  ⟨0x1834, 1, 0x4, 0x0, 0x0, 0x0, 0xffffffff, 0x0, 0x0⟩]
/-- Rows of the map from offset 0x1838 (R383). -/
def regRows2 : List RegRow := [
  ⟨0x1838, 1, 0x4, 0x0, 0x0, 0x0, 0xffffffff, 0x0, 0x0⟩,
  ⟨0x183c, 1, 0x4, 0x0, 0x0, 0x0, 0xffffffff, 0x0, 0x0⟩,
  ⟨0x1840, 1, 0x4, 0x3, 0x0, 0x0, 0x0, 0x0, 0x0⟩,
  ⟨0x1844, 1, 0x4, 0x1fff, 0x0, 0x0, 0x0, 0x0, 0x0⟩,
  ⟨0x1848, 1, 0x4, 0x0, 0x0, 0x0, 0x0, 0x0, 0xffffff1f⟩,
  ⟨0x184c, 1, 0x4, 0x0, 0x0, 0x0, 0x0, 0x0, 0x1ff01ff⟩,
  ⟨0x1850, 1, 0x4, 0x0, 0x0, 0x0, 0x0, 0x0, 0xffffffff⟩,
  ⟨0x1854, 1, 0x4, 0x0, 0x0, 0x0, 0x0, 0x0, 0xffffffff⟩,
  ⟨0x1858, 1, 0x4, 0x0, 0x0, 0x0, 0x0, 0x0, 0xffffffff⟩,
  ⟨0x185c, 1, 0x4, 0x0, 0x0, 0x0, 0x0, 0x0, 0xffffffff⟩,
  ⟨0x1860, 1, 0x4, 0x0, 0xf3cfc, 0x0, 0x0, 0x0, 0x0⟩,
  ⟨0x1864, 1, 0x4, 0x0, 0x7, 0x0, 0x0, 0x0, 0x0⟩,
  ⟨0x1868, 4, 0x4, 0x0, 0x0, 0x0, 0x0, 0xffffffff, 0x0⟩,
  ⟨0x1878, 1, 0x4, 0x0, 0x0, 0x0, 0x0, 0x0, 0xffff1f1f⟩,
  ⟨0x187c, 1, 0x4, 0x0, 0x0, 0x0, 0xffffffff, 0x0, 0x0⟩,
  ⟨0x2000, 1, 0x4, 0x3, 0x0, 0x0, 0x0, 0x0, 0x0⟩,
  ⟨0x2004, 1, 0x4, 0x0, 0x0, 0x0, 0x0, 0x0, 0xffff003f⟩,
  ⟨0x2008, 1, 0x4, 0xffffffc0, 0x0, 0x0, 0x0, 0x0, 0x0⟩,
  ⟨0x200c, 1, 0x4, 0xffffffff, 0x0, 0x0, 0x0, 0x0, 0x0⟩,
  ⟨0x2010, 1, 0x4, 0xffffffc0, 0x0, 0x0, 0x0, 0x0, 0x0⟩,
  ⟨0x2014, 1, 0x4, 0xffffffff, 0x0, 0x0, 0x0, 0x0, 0x0⟩,
  ⟨0x2018, 1, 0x4, 0xffffffc0, 0x0, 0x0, 0x0, 0x0, 0x0⟩,
  ⟨0x201c, 1, 0x4, 0xffffffff, 0x0, 0x0, 0x0, 0x0, 0x0⟩,
  ⟨0x2020, 1, 0x4, 0xfffffff0, 0x0, 0x0, 0x0, 0x0, 0x0⟩]
/-- Rows of the map from offset 0x2024 (R383). -/
def regRows3 : List RegRow := [
  ⟨0x2024, 1, 0x4, 0xffffffff, 0x0, 0x0, 0x0, 0x0, 0x0⟩,
  ⟨0x2028, 1, 0x4, 0xfffffff0, 0x0, 0x0, 0x0, 0x0, 0x0⟩,
  ⟨0x202c, 1, 0x4, 0xffffffff, 0x0, 0x0, 0x0, 0x0, 0x0⟩,
  ⟨0x2030, 1, 0x4, 0xf0f0f, 0x0, 0x0, 0x0, 0x0, 0x0⟩,
  ⟨0x2034, 1, 0x4, 0x7ff, 0x0, 0x0, 0x0, 0x0, 0x0⟩,
  ⟨0x2038, 1, 0x4, 0x1ff, 0x0, 0x0, 0x0, 0x0, 0x0⟩,
  ⟨0x203c, 1, 0x4, 0x0, 0x0, 0xffffffff, 0x0, 0x0, 0x0⟩,
  ⟨0x2040, 1, 0x4, 0x0, 0x0, 0x0, 0xffffffff, 0x0, 0x0⟩,
  ⟨0x2044, 1, 0x4, 0x0, 0x0, 0x0, 0xffffffff, 0x0, 0x0⟩,
  ⟨0x2048, 1, 0x4, 0x0, 0x0, 0x0, 0x0, 0x0, 0xffffffff⟩,
  ⟨0x204c, 1, 0x4, 0x0, 0x0, 0x0, 0xffffffff, 0x0, 0x0⟩,
  ⟨0x2400, 16, 0x10, 0x0, 0x0, 0x0, 0x0, 0x0, 0xffff0f⟩,
  ⟨0x2404, 16, 0x10, 0x0, 0x0, 0x0, 0x0, 0x0, 0xffffffff⟩,
  ⟨0x2408, 16, 0x10, 0x0, 0x0, 0x0, 0xffffffff, 0x0, 0x0⟩,
  ⟨0x240c, 16, 0x10, 0x0, 0x0, 0x0, 0x0, 0x0, 0xffffffff⟩,
  ⟨0x2600, 8, 0x10, 0x1fff1fff, 0x0, 0x0, 0x0, 0x0, 0x0⟩,
  ⟨0x2604, 8, 0x10, 0x80001fff, 0x0, 0x0, 0x0, 0x0, 0x0⟩,
  ⟨0x2608, 8, 0x10, 0x0, 0x0, 0x0, 0x0, 0x0, 0xffffffff⟩,
  ⟨0x2680, 8, 0x10, 0xffffffff, 0x0, 0x0, 0x0, 0x0, 0x0⟩,
  ⟨0x2684, 8, 0x10, 0x3, 0x0, 0x0, 0x0, 0x0, 0x0⟩,
  ⟨0x2688, 8, 0x10, 0x0, 0x0, 0x0, 0x0, 0x0, 0xffffffff⟩,
  ⟨0x3000, 80, 0x8, 0x0, 0x7ffff01f, 0x0, 0x0, 0x0, 0x0⟩,
  ⟨0x3004, 80, 0x8, 0x0, 0xfffff, 0x0, 0x0, 0x0, 0x0⟩,
  ⟨0x3300, 1, 0x4, 0x0, 0x0, 0x0, 0x0, 0x0, 0xffffffff⟩]
/-- Rows of the map from offset 0x3304 (R383). -/
def regRows4 : List RegRow := [
  ⟨0x3304, 1, 0x4, 0x0, 0x0, 0x0, 0x7f, 0x0, 0x0⟩,
  ⟨0x3308, 1, 0x4, 0x0, 0x0, 0x0, 0xffffffff, 0x0, 0x0⟩,
  ⟨0x330c, 1, 0x4, 0x0, 0x0, 0x0, 0xffffffff, 0x0, 0x0⟩,
  ⟨0x3310, 1, 0x4, 0x0, 0x0, 0x0, 0xffffffff, 0x0, 0x0⟩,
  ⟨0x3400, 1, 0x4, 0x0, 0x0, 0x0, 0x0, 0x0, 0xf⟩,
  ⟨0x3404, 1, 0x4, 0x0, 0x0, 0x0, 0xffffffff, 0x0, 0x0⟩,
  ⟨0x3408, 1, 0x4, 0x0, 0x0, 0x0, 0xffffffff, 0x0, 0x0⟩,
  ⟨0x340c, 1, 0x4, 0x0, 0x0, 0x0, 0x0, 0x0, 0xffffffe0⟩,
  ⟨0x3410, 1, 0x4, 0xff, 0x0, 0x0, 0x0, 0x0, 0x0⟩,
  ⟨0x3414, 1, 0x4, 0x0, 0x0, 0x0, 0x0, 0x0, 0xffff⟩,
  ⟨0x3418, 1, 0x4, 0x0, 0x0, 0x0, 0x0, 0x0, 0xffffffff⟩,
  ⟨0x341c, 1, 0x4, 0x0, 0x0, 0x0, 0x0, 0x0, 0xffffffff⟩,
  ⟨0x3420, 1, 0x4, 0x0, 0x0, 0x0, 0xffffffff, 0x0, 0x0⟩,
  ⟨0x3800, 1, 0x4, 0x0, 0x777777, 0x0, 0x0, 0x0, 0x0⟩,
  ⟨0x3810, 6, 0x10, 0x0, 0x0, 0x0, 0xffffffff, 0x0, 0x0⟩,
  ⟨0x3814, 6, 0x10, 0x0, 0x0, 0x0, 0xffffffff, 0x0, 0x0⟩,
  ⟨0x3818, 6, 0x10, 0x0, 0x0, 0x0, 0xffffffff, 0x0, 0x0⟩,
  ⟨0x381c, 6, 0x10, 0x0, 0x0, 0x0, 0x0, 0x0, 0xffffffff⟩,
  ⟨0x4000, 1, 0x4, 0x1, 0x0, 0x0, 0x0, 0x0, 0x0⟩,
  ⟨0x4004, 1, 0x4, 0xfff07ff, 0x0, 0x0, 0x0, 0x0, 0x0⟩,
  ⟨0x4008, 1, 0x4, 0x1f011f, 0x0, 0x0, 0x0, 0x0, 0x0⟩,
  ⟨0x400c, 1, 0x4, 0x1fff, 0x0, 0x0, 0x0, 0x0, 0x0⟩,
  ⟨0x4010, 1, 0x4, 0x0, 0x0, 0x0, 0x0, 0x0, 0xffff003f⟩,
  ⟨0x4014, 1, 0x4, 0x0, 0x0, 0x0, 0x0, 0x0, 0xffffffff⟩]
/-- Rows of the map from offset 0x4018 (R383). -/
def regRows5 : List RegRow := [
  ⟨0x4018, 1, 0x4, 0x0, 0x0, 0x0, 0x0, 0x0, 0xffff⟩,
  ⟨0x401c, 1, 0x4, 0x0, 0x0, 0x0, 0x0, 0x0, 0xffffffff⟩,
  ⟨0x4020, 1, 0x4, 0x0, 0x0, 0x0, 0x0, 0x0, 0xffffffff⟩,
  ⟨0x4024, 1, 0x4, 0x0, 0x0, 0x0, 0x0, 0x0, 0x1ffffff⟩,
  ⟨0x4028, 1, 0x4, 0x0, 0x0, 0x0, 0x0, 0x0, 0xffffff⟩,
  ⟨0x402c, 1, 0x4, 0xffff0001, 0x0, 0x0, 0x0, 0x0, 0x0⟩,
  ⟨0x4030, 1, 0x4, 0x0, 0x0, 0x0, 0x0, 0x0, 0xffffff⟩,
  ⟨0x4034, 1, 0x4, 0x0, 0x0, 0x0, 0xffffffff, 0x0, 0x0⟩,
  ⟨0x4038, 1, 0x4, 0x0, 0x0, 0x0, 0xffffffff, 0x0, 0x0⟩,
  ⟨0x403c, 1, 0x4, 0x0, 0x0, 0x0, 0xffffffff, 0x0, 0x0⟩,
  ⟨0x4040, 1, 0x4, 0x0, 0x0, 0x0, 0xffffffff, 0x0, 0x0⟩,
  ⟨0x4044, 1, 0x4, 0x0, 0x0, 0x0, 0xffffffff, 0x0, 0x0⟩,
  ⟨0x4048, 1, 0x4, 0x0, 0x0, 0x0, 0xffffffff, 0x0, 0x0⟩,
  ⟨0x4800, 1, 0x4, 0x0, 0x0, 0x0, 0x0, 0x0, 0xfff003f⟩,
  ⟨0x4804, 1, 0x4, 0x0, 0x0, 0xc, 0x0, 0x0, 0xffff03⟩,
  ⟨0x4810, 2, 0x30, 0xfff07ff, 0x0, 0x0, 0x0, 0x0, 0x0⟩,
  ⟨0x4814, 2, 0x30, 0xfff07ff, 0x0, 0x0, 0x0, 0x0, 0x0⟩,
  ⟨0x4818, 1, 0x4, 0xff03f7, 0x0, 0x0, 0x0, 0x0, 0x0⟩,
  ⟨0x4848, 1, 0x4, 0xff0001, 0x0, 0x0, 0x0, 0x0, 0x0⟩,
  ⟨0x481c, 2, 0x30, 0xffff7f0f, 0x0, 0x0, 0x0, 0x0, 0x0⟩,
  ⟨0x4820, 3, 0x4, 0xff03ffff, 0x0, 0x0, 0x0, 0x0, 0x0⟩,
  ⟨0x4850, 1, 0x4, 0xff03ffff, 0x0, 0x0, 0x0, 0x0, 0x0⟩,
  ⟨0x4880, 9, 0x4, 0xffff, 0x0, 0x0, 0x0, 0x0, 0x0⟩,
  ⟨0x48c0, 2, 0x4, 0x0, 0x0, 0x0, 0xffffffff, 0x0, 0x0⟩]
/-- Rows of the map from offset 0x5000 (R383). -/
def regRows6 : List RegRow := [
  ⟨0x5000, 1, 0x4, 0x1f, 0x0, 0x0, 0x0, 0x0, 0x0⟩,
  ⟨0x5004, 1, 0x4, 0x0, 0x0, 0x0, 0x0, 0x0, 0x31f⟩,
  ⟨0x5008, 1, 0x4, 0xffff, 0x0, 0x0, 0x0, 0x0, 0x0⟩,
  ⟨0x500c, 1, 0x4, 0x1fff, 0x0, 0x0, 0x0, 0x0, 0x0⟩,
  ⟨0x5010, 1, 0x4, 0x0, 0x0, 0x0, 0xffffffff, 0x0, 0x0⟩,
  ⟨0x5040, 1, 0x4, 0xffff1f01, 0x0, 0x0, 0x0, 0x0, 0x0⟩,
  ⟨0x5044, 1, 0x4, 0xffffffff, 0x0, 0x0, 0x0, 0x0, 0x0⟩,
  ⟨0x5048, 1, 0x4, 0xffff, 0x0, 0x0, 0x0, 0x0, 0x0⟩,
  ⟨0x504c, 1, 0x4, 0x0, 0x0, 0x0, 0x0, 0x0, 0xffff011f⟩,
  ⟨0x5050, 1, 0x4, 0x7fffe0, 0x0, 0x0, 0x0, 0x0, 0x0⟩,
  ⟨0x5054, 1, 0x4, 0x0, 0x0, 0x0, 0xffffffff, 0x0, 0x0⟩,
  ⟨0x5058, 1, 0x4, 0x0, 0x0, 0x0, 0xffffffff, 0x0, 0x0⟩,
  ⟨0x5800, 1, 0x4, 0x37, 0x0, 0x0, 0x0, 0x0, 0x0⟩,
  ⟨0x5804, 1, 0x4, 0x30003, 0x0, 0x0, 0x0, 0x0, 0x0⟩,
  ⟨0x5808, 1, 0x4, 0x0, 0x0, 0x0, 0x0, 0x0, 0xff07⟩,
  ⟨0x580c, 1, 0x4, 0x0, 0x0, 0x0, 0xffffffff, 0x0, 0x0⟩,
  ⟨0x5810, 1, 0x4, 0x0, 0x0, 0x0, 0xffffffff, 0x0, 0x0⟩,
  ⟨0x6000, 1, 0x4, 0x1, 0x0, 0x0, 0x0, 0x0, 0x2⟩,
  ⟨0x6004, 1, 0x4, 0x3f03, 0x0, 0x0, 0x0, 0x0, 0x0⟩,
  ⟨0x6008, 1, 0x4, 0xffffffff, 0x0, 0x0, 0x0, 0x0, 0x0⟩,
  ⟨0x600c, 1, 0x4, 0xffff3f, 0x0, 0x0, 0x0, 0x0, 0x0⟩,
  ⟨0x6010, 1, 0x4, 0xff7fffe0, 0x0, 0x0, 0x0, 0x0, 0x0⟩,
  ⟨0x6014, 1, 0x4, 0x0, 0x0, 0x0, 0x0, 0x0, 0xff07⟩,
  ⟨0x6018, 1, 0x4, 0x0, 0x0, 0x0, 0x0, 0x0, 0xffffffff⟩]
/-- Rows of the map from offset 0x601c (R383). -/
def regRows7 : List RegRow := [
  ⟨0x601c, 1, 0x4, 0x0, 0x0, 0x0, 0xffffffff, 0x0, 0x0⟩,
  ⟨0x6020, 1, 0x4, 0x0, 0x0, 0x0, 0xffffffff, 0x0, 0x0⟩,
  ⟨0x6024, 1, 0x4, 0x0, 0x0, 0x0, 0xffffffff, 0x0, 0x0⟩,
  ⟨0x6028, 1, 0x4, 0x0, 0x0, 0x0, 0xffffffff, 0x0, 0x0⟩,
  ⟨0x6030, 1, 0x4, 0x7f01, 0x0, 0x0, 0x0, 0x0, 0x0⟩,
  ⟨0x6034, 1, 0x4, 0x0, 0x0, 0x0, 0x0, 0x0, 0x3⟩,
  ⟨0x6800, 1, 0x4, 0x0, 0x0, 0x1, 0x0, 0x0, 0xff00⟩,
  ⟨0x6804, 1, 0x4, 0x0, 0x0, 0x0, 0x0, 0x0, 0xffffffff⟩,
  ⟨0x6808, 1, 0x4, 0x0, 0x0, 0x0, 0x0, 0x0, 0xffffffff⟩,
  ⟨0x6840, 16, 0x10, 0x0, 0x0, 0x0, 0x0, 0x0, 0x37⟩,
  ⟨0x6844, 16, 0x10, 0x0, 0x0, 0x0, 0x0, 0x0, 0xffffffff⟩,
  ⟨0x6848, 16, 0x10, 0x0, 0x0, 0x0, 0xffffffff, 0x0, 0x0⟩,
  ⟨0x6c00, 1, 0x4, 0x3f1f07, 0x0, 0x0, 0x0, 0x0, 0x0⟩,
  ⟨0x6c04, 1, 0x4, 0x0, 0x0, 0x0, 0x0, 0x0, 0x1ff⟩,
  ⟨0x6c08, 1, 0x4, 0x0, 0x0, 0x0, 0x0, 0x0, 0xffffff⟩,
  ⟨0x6c0c, 1, 0x4, 0xfff, 0x0, 0x0, 0x0, 0x0, 0x0⟩,
  ⟨0x6c10, 1, 0x4, 0x0, 0x0, 0x0, 0x0, 0x0, 0xffffffff⟩,
  ⟨0x6c14, 1, 0x4, 0x0, 0x0, 0x0, 0x0, 0x0, 0x1f1f⟩,
  ⟨0x6c18, 1, 0x4, 0x0, 0x0, 0x0, 0x0, 0x0, 0xffffffff⟩,
  ⟨0x7000, 1, 0x4, 0x0, 0x0, 0x0, 0x0, 0x0, 0x7f⟩,
  ⟨0x7004, 1, 0x4, 0x0, 0x0, 0x0, 0x0, 0x0, 0xffffffff⟩,
  ⟨0x7008, 1, 0x4, 0x0, 0x0, 0x0, 0x0, 0x0, 0xffffffff⟩,
  ⟨0x700c, 1, 0x4, 0xff01, 0x0, 0x0, 0x0, 0x0, 0x0⟩,
  ⟨0x7010, 1, 0x4, 0x0, 0x0, 0x0, 0x0, 0x0, 0xffffffff⟩]
/-- Rows of the map from offset 0x7014 (R383). -/
def regRows8 : List RegRow := [
  ⟨0x7014, 1, 0x4, 0x0, 0x0, 0x0, 0xffffffff, 0x0, 0x0⟩,
  ⟨0x7018, 1, 0x4, 0x0, 0x0, 0x0, 0xffffffff, 0x0, 0x0⟩,
  ⟨0x7400, 1, 0x4, 0x0, 0x0, 0x0, 0x0, 0x0, 0xff3f⟩,
  ⟨0x7404, 1, 0x4, 0x1ffff, 0x0, 0x0, 0x0, 0x0, 0x0⟩,
  ⟨0x7408, 1, 0x4, 0x0, 0x0, 0x0, 0xffffffff, 0x0, 0x0⟩,
  ⟨0x740c, 1, 0x4, 0x0, 0x0, 0x0, 0xffffffff, 0x0, 0x0⟩,
  ⟨0x7410, 1, 0x4, 0x0, 0x0, 0x0, 0xffffffff, 0x0, 0x0⟩,
  ⟨0x7800, 8, 0x4, 0xffffffff, 0x0, 0x0, 0x0, 0x0, 0x0⟩,
  ⟨0x7820, 1, 0x4, 0x0, 0x0, 0x0, 0x0, 0x0, 0x3ff⟩,
  ⟨0x7824, 1, 0x4, 0x0, 0x0, 0x0, 0x0, 0x0, 0xffffffff⟩,
  ⟨0x7840, 16, 0x4, 0x0, 0x0, 0x0, 0xffffffff, 0x0, 0x0⟩]

/-- The whole map (R383, R388). -/
def regRows : List RegRow := regRows0 ++ regRows1 ++ regRows2 ++ regRows3 ++ regRows4 ++ regRows5 ++ regRows6 ++ regRows7 ++ regRows8

/-- Whether the row holds the register at `off`. -/
def RegRow.covers (r : RegRow) (off : Nat) : Bool :=
  r.off ≤ off && (off - r.off) % r.step == 0 && (off - r.off) / r.step < r.n

/-- The row of the register at `off`; none for a reserved offset (R384). -/
def regRow (off : Nat) : Option RegRow := regRows.find? (·.covers off)

/-- Reset values that are not 0 (R388, Registers tables), part 0. -/
def resetRows0 : List (Nat × Nat) := [(0x40c, 0xa), (0x410, 0x1), (0x800, 0x3), (0x840, 0x2), (0x844, 0x2710), (0x1004, 0x800), (0x1008, 0xa04140c), (0x1044, 0x800), (0x1064, 0x800), (0x1084, 0x800), (0x10a4, 0x800), (0x1800, 0xa0200), (0x1844, 0x7d0), (0x1848, 0xffff0000), (0x184c, 0xff00ff), (0x1860, 0x91420), (0x1864, 0x4), (0x2030, 0x40404), (0x2034, 0x64), (0x2604, 0x1), (0x2614, 0x1), (0x2624, 0x1), (0x2634, 0x1), (0x2644, 0x1)]
/-- Reset values that are not 0 (R388, Registers tables), part 1. -/
def resetRows1 : List (Nat × Nat) := [(0x2654, 0x1), (0x2664, 0x1), (0x2674, 0x1), (0x2680, 0x190), (0x2690, 0x190), (0x26a0, 0x190), (0x26b0, 0x190), (0x26c0, 0x190), (0x26d0, 0x190), (0x26e0, 0x190), (0x26f0, 0x190), (0x3410, 0x18), (0x3800, 0x11200), (0x4004, 0x4380780), (0x4008, 0x90009), (0x400c, 0x440), (0x4010, 0x10), (0x4024, 0x87e100), (0x4028, 0x17ef), (0x402c, 0x3e80000), (0x4800, 0xfff0000), (0x4818, 0xff0240), (0x4848, 0xff0000), (0x481c, 0x100800)]
/-- Reset values that are not 0 (R388, Registers tables), part 2. -/
def resetRows2 : List (Nat × Nat) := [(0x484c, 0x100800), (0x5000, 0x14), (0x5008, 0x1000), (0x5040, 0x18000300), (0x5044, 0xf333f333), (0x5048, 0xf333), (0x5050, 0x700000), (0x5800, 0x16), (0x6004, 0x3f02), (0x600c, 0x8203f), (0x6010, 0x107c0000), (0x6030, 0x5001), (0x6c00, 0x807), (0x700c, 0xa01), (0x7400, 0x10), (0x7404, 0x107d0), (0x4880, 0x4000), (0x4890, 0x4000), (0x48a0, 0x4000)]

/-- Every register whose reset value is not 0, but for SYS_ID and the regions. -/
def resetRows : List (Nat × Nat) := resetRows0 ++ resetRows1 ++ resetRows2

/-- Reset values of the scratch and DRAM regions (R220): `i` counts 8-byte region slots from 0x3000. -/
def rgnReset (i : Nat) (size : Bool) : Nat :=
  if i / 8 == 6 then 0
  else if i % 8 == 0 then (if size then 0x800 else 0x1D)
  else if i % 8 == 1 then (if size then 0x70000 else 0x0F)
  else 0

/-- What the register at `off` holds at die reset (R388). SYS_ID carries the revision of the part (R396). -/
def resetVal (d : DieId) (off : Nat) : Word :=
  BitVec.ofNat 32 <|
    if off == 0 then
      (if d == .E then 0x01000000 else 0) + (if Config.revision3 then 0x00030000 else 0x00020000) + 0x4816
    else if 0x3000 ≤ off && off < 0x3280 then rgnReset ((off - 0x3000) / 8) (off % 8 == 4)
    else ((resetRows.find? (·.1 == off)).map (·.2)).getD 0

end Sys2Proof.Machine
end

