-- ==== Sys2Proof/Machine/Flags.lean ====
section
/-! DEFINITION. Sparse maps in canonical form, little-endian bytes, and the registers of a die: reading and writing a whole
register, a field, a flag and a saturating counter (R3, R379, R388). -/

namespace Sys2Proof.Machine

/-- What a sparse map holds at `k`; `d` is what an unlisted key reads as. -/
def smGet {α : Type} (d : Nat → α) (m : List (Nat × α)) (k : Nat) : α :=
  ((m.find? (·.1 == k)).map (·.2)).getD (d k)

/-- Place an entry before the first larger key. -/
def smInsert {α : Type} : List (Nat × α) → Nat → α → List (Nat × α)
  | [], k, v => [(k, v)]
  | p :: t, k, v => if k < p.1 then (k, v) :: p :: t else p :: smInsert t k v

/-- Write `v` at `k`. Writing what an unlisted key reads as takes the entry away. -/
def smSet {α : Type} [DecidableEq α] (d : Nat → α) (m : List (Nat × α)) (k : Nat) (v : α) : List (Nat × α) :=
  let r := m.filter (·.1 != k)
  if v = d k then r else smInsert r k v

/-- Keys rise strictly and no entry equals what an unlisted key reads as. -/
def smWf {α : Type} [DecidableEq α] (d : Nat → α) : List (Nat × α) → Bool
  | [] => true
  | [p] => decide (p.2 ≠ d p.1)
  | p :: q :: t => decide (p.2 ≠ d p.1) && decide (p.1 < q.1) && smWf d (q :: t)

/-- The canonical form of a byte memory whose unlisted addresses read as `dflt`. -/
def Memory.wf (dflt : Byte) (m : List Host.Cell) : Bool := smWf (fun _ => dflt) m

/-- One byte of a memory. -/
def Memory.read (dflt : Byte) (m : List Host.Cell) (a : Nat) : Byte := smGet (fun _ => dflt) m a

/-- Write one byte of a memory. -/
def Memory.write (dflt : Byte) (m : List Host.Cell) (a : Nat) (v : Byte) : List Host.Cell :=
  smSet (fun _ => dflt) m a v

/-- `n` bytes from address `a`. -/
def Memory.readN (dflt : Byte) (m : List Host.Cell) (a : Nat) : Nat → List Byte
  | 0 => []
  | n + 1 => Memory.read dflt m a :: Memory.readN dflt m (a + 1) n

/-- Write bytes from address `a` on. -/
def Memory.writeN (dflt : Byte) (m : List Host.Cell) (a : Nat) : List Byte → List Host.Cell
  | [] => m
  | b :: t => Memory.writeN dflt (Memory.write dflt m a b) (a + 1) t

/-- The `n` low bytes of `v`, lowest first (R3). -/
def le : Nat → Nat → List Byte
  | 0, _ => []
  | n + 1, v => BitVec.ofNat 8 v :: le n (v / 256)

/-- The number that bytes spell, lowest byte first (R3). -/
def ofLe : List Byte → Nat
  | [] => 0
  | b :: t => b.toNat + 256 * ofLe t

/-- `n` bytes of a structure from byte `i`. -/
def bytesAt (bs : List Byte) (i n : Nat) : List Byte := (bs.drop i).take n

/-- The `n`-byte little-endian field at byte `i`. -/
def natAt (bs : List Byte) (i n : Nat) : Nat := ofLe (bytesAt bs i n)

/-- Bits `[lo + w - 1 : lo]` of a number. -/
def bits (v lo w : Nat) : Nat := v / 2 ^ lo % 2 ^ w

/-- Bit `i` of a number. -/
def bitAt (v i : Nat) : Bool := v.testBit i

/-- 1 for true. -/
def b2n (b : Bool) : Nat := if b then 1 else 0

/-- A two's-complement number of `w` bits read from the low bits of `v`. -/
def toSigned (w v : Nat) : Int :=
  let u := v % 2 ^ w
  if u < 2 ^ (w - 1) then (u : Int) else (u : Int) - 2 ^ w

/-- The low `w` bits of an integer, two's complement. -/
def ofSigned (w : Nat) (i : Int) : Nat := (i % (2 ^ w : Int)).toNat

/-- Round `n / d` to the nearest integer, ties away from zero (R250). -/
def roundDiv (n : Int) (d : Nat) : Int :=
  if n < 0 then -((2 * -n + d) / (2 * d)) else (2 * n + d) / (2 * d)

/-- Clip to `0 … hi`. -/
def clip (i : Int) (hi : Nat) : Nat := min i.toNat hi

/-- Set bits `[lo + w - 1 : lo]` of a word. -/
def setBits (v : Word) (lo w n : Nat) : Word :=
  let m : Word := BitVec.ofNat 32 ((2 ^ w - 1) * 2 ^ lo)
  (v &&& ~~~m) ||| (BitVec.ofNat 32 (n % 2 ^ w * 2 ^ lo))

/-- The register at `off`, as the die holds it. -/
def Die.reg (x : Die) (off : Nat) : Word := smGet (resetVal x.id) x.regs off

/-- Hold `v` in the register at `off`. -/
def Die.setReg (x : Die) (off : Nat) (v : Word) : Die :=
  { x with regs := smSet (resetVal x.id) x.regs off v }

/-- A field's value. -/
def Die.get (x : Die) (f : F) : Nat := bits (x.reg f.off).toNat f.lo f.width

/-- A field read as a flag. -/
def Die.on (x : Die) (f : F) : Bool := x.get f != 0

/-- Give a field a value, modulo its width. -/
def Die.put (x : Die) (f : F) (n : Nat) : Die := x.setReg f.off (setBits (x.reg f.off) f.lo f.width n)

/-- Give a flag a value. -/
def Die.flag (x : Die) (f : F) (b : Bool) : Die := x.put f (b2n b)

/-- Add `k` to a counter, which saturates at the largest value of its width (R379). -/
def Die.bump (x : Die) (f : F) (k : Nat := 1) : Die := x.put f (min (x.get f + k) (2 ^ f.width - 1))

/-- Accord time in whole ns (R137). -/
def Die.ns (x : Die) : Nat := x.acd.time / 2 ^ 32

/-- Put something on the contacts (DESIGN CHOICE, assumption 4). -/
def Die.emit (x : Die) (o : Out) : Die := { x with out := x.out ++ [o] }

/-- A byte that the spec leaves open (DESIGN CHOICE, assumption 18). -/
def Die.freeByte (x : Die) : Byte × Die := (Config.freeByte x.free, { x with free := x.free + 1 })

/-- `n` bytes that the spec leaves open (DESIGN CHOICE, assumption 18). -/
def Die.freeBytes (x : Die) : Nat → List Byte × Die
  | 0 => ([], x)
  | n + 1 =>
    let (b, x) := x.freeByte
    let (bs, x) := x.freeBytes n
    (b :: bs, x)

/-- The value that a list of pairs gives a key. -/
def look {α β : Type} [BEq α] (m : List (α × β)) (k : α) : Option β := (m.find? (·.1 == k)).map (·.2)

/-- Replace or add a key's value. -/
def assoc {α β : Type} [BEq α] (m : List (α × β)) (k : α) (v : β) : List (α × β) :=
  (k, v) :: m.filter (fun p => !(p.1 == k))

/-- PWR_STATE code of a die's power state. -/
def Power.code : Power → Nat
  | .booting => 3
  | .active => 4
  | .relay => 5
  | .deep => 6
  | .drydown => 7

/-- 1 for die E, as the DIE fields code it. -/
def dieBit : DieId → Nat
  | .W => 0
  | .E => 1

end Sys2Proof.Machine
end

