-- ==== Sys2Proof/Machine/Cvu.lean ====
section
/-! DEFINITION. Check values: the four algorithms of R229, the CRC-8 of the lane-local blocks (chapter 05), the
SMBus PEC, and AES-128-CMAC (R152). All are computed on numbers. -/

namespace Sys2Proof.Machine

/-- `n` steps of a reflected 32-bit CRC register. -/
def crcShiftR (poly : Nat) : Nat → Nat → Nat
  | 0, r => r
  | n + 1, r => crcShiftR poly n (if r % 2 = 1 then (r / 2) ^^^ poly else r / 2)

/-- `n` steps of a direct CRC register of `w` bits. -/
def crcShiftL (w poly : Nat) : Nat → Nat → Nat
  | 0, r => r
  | n + 1, r => crcShiftL w poly n (if r / 2 ^ (w - 1) % 2 = 1 then (2 * r % 2 ^ w) ^^^ poly else 2 * r % 2 ^ w)

/-- A reflected 32-bit CRC over bytes, from register value `r` (R229). -/
def crcR (poly : Nat) (bs : List Byte) (r : Nat) : Nat :=
  bs.foldl (fun r b => crcShiftR poly 8 (r ^^^ b.toNat)) r

/-- A direct CRC of `w` bits over bytes, from register value `r` (R229). -/
def crcL (w poly : Nat) (bs : List Byte) (r : Nat) : Nat :=
  bs.foldl (fun r b => crcShiftL w poly 8 (r ^^^ (b.toNat * 2 ^ (w - 8)))) r

/-- Whether a CVU_SEL code names an algorithm (R229). -/
def cvuCodeOk (code : Nat) : Bool := code < 4

/-- Width in bits of the algorithm's value (R229). -/
def cvuWidth (code : Nat) : Nat := if code < 2 then 32 else if code = 2 then 16 else 8

/-- Register value before the first byte (R229). -/
def cvuInit (code : Nat) : Nat := 2 ^ cvuWidth code - 1

/-- Take bytes into the register of algorithm `code` (R229). -/
def cvuUpdate (code : Nat) (r : Nat) (bs : List Byte) : Nat :=
  match code with
  | 0 => crcR 0x82F63B78 bs r
  | 1 => crcR 0xEDB88320 bs r
  | 2 => crcL 16 0x1021 bs r
  | _ => crcL 8 0x2F bs r

/-- The final XOR (R229). -/
def cvuFinal (code : Nat) (r : Nat) : Nat :=
  match code with
  | 0 => r ^^^ 0xFFFFFFFF
  | 1 => r ^^^ 0xFFFFFFFF
  | 2 => r
  | _ => r ^^^ 0xFF

/-- The check value of algorithm `code` over bytes (R229). -/
def cvu (code : Nat) (bs : List Byte) : Nat := cvuFinal code (cvuUpdate code (cvuInit code) bs)

/-- The check field of `n` bytes (R230): the value little-endian, the bytes that it does not fill 0. -/
def cvuField (code n : Nat) (bs : List Byte) : List Byte := le n (cvu code bs)

/-- CRC-8 of a lane-local block over payload bits [55:0], bit 0 first (chapter 05). -/
def laneCrc : Nat → Nat → Nat → Nat
  | 0, _, r => r
  | n + 1, v, r =>
    laneCrc n (v / 2) (if (v % 2) ^^^ (r / 128) = 1 then (2 * r % 256) ^^^ 0x2F else 2 * r % 256)

/-- A lane-local block from its bits [55:0]: the CRC in bits [63:56]. -/
def laneBlock (v : Nat) : BitVec 64 := BitVec.ofNat 64 (v % 2 ^ 56 + laneCrc 56 (v % 2 ^ 56) 0xFF * 2 ^ 56)

/-- Whether a lane-local block passes its CRC. -/
def laneBlockOk (p : BitVec 64) : Bool := laneBlock p.toNat == p

/-- SMBus packet error code: CRC-8 with x^8 + x^2 + x + 1 from 0. PRESUMED from SMBus 2.0 (assumption 6). -/
def pecOf (bs : List Byte) : Byte := BitVec.ofNat 8 (crcL 8 0x07 bs 0)

/-- Multiplication in GF(2^8) modulo x^8 + x^4 + x^3 + x + 1, over `n` bits of `b`. -/
def gmul : Nat → Nat → Nat → Nat
  | 0, _, _ => 0
  | n + 1, a, b =>
    (if b % 2 = 1 then a else 0) ^^^ gmul n (if a ≥ 128 then (2 * a % 256) ^^^ 0x1B else 2 * a) (b / 2)

/-- `a` to the power 2^n - 2 by n - 1 squarings: the inverse in GF(2^8) for n = 8. -/
def ginv : Nat → Nat → Nat → Nat
  | 0, _, r => r
  | n + 1, a, r =>
    let a := gmul 8 a a
    ginv n a (gmul 8 r a)

/-- AES S-box. -/
def sbox (a : Nat) : Nat :=
  let b := ginv 7 a 1
  let rot (n : Nat) : Nat := (b * 2 ^ n + b / 2 ^ (8 - n)) % 256
  b ^^^ rot 1 ^^^ rot 2 ^^^ rot 3 ^^^ rot 4 ^^^ 0x63

/-- AES key schedule: the next round key from one, with round constant `rc`. -/
def nextKey (k : List Nat) (rc : Nat) : List Nat :=
  let w (i : Nat) : Nat := k.getD i 0
  let t : List Nat := [sbox (w 13) ^^^ rc, sbox (w 14), sbox (w 15), sbox (w 12)]
  let a := List.zipWith (· ^^^ ·) (k.take 4) t
  let b := List.zipWith (· ^^^ ·) ((k.drop 4).take 4) a
  let c := List.zipWith (· ^^^ ·) ((k.drop 8).take 4) b
  let d := List.zipWith (· ^^^ ·) ((k.drop 12).take 4) c
  a ++ b ++ c ++ d

/-- AES ShiftRows on a state in column order. -/
def shiftRows (s : List Nat) : List Nat :=
  (List.range 16).map fun i => s.getD ((i + 4 * (i % 4)) % 16) 0

/-- AES MixColumns on one column. -/
def mixColumn (s : List Nat) (c : Nat) : List Nat :=
  let a (i : Nat) : Nat := s.getD (4 * c + i % 4) 0
  (List.range 4).map fun i => gmul 8 (a i) 2 ^^^ gmul 8 (a (i + 1)) 3 ^^^ a (i + 2) ^^^ a (i + 3)

/-- AES rounds from round constant `rc`; the last of them without MixColumns. -/
def aesRounds : Nat → List Nat → List Nat → Nat → List Nat
  | 0, s, _, _ => s
  | n + 1, s, k, rc =>
    let k := nextKey k rc
    let s := shiftRows (s.map sbox)
    let s := if n = 0 then s else (List.range 4).flatMap (mixColumn s)
    aesRounds n (List.zipWith (· ^^^ ·) s k) k (gmul 8 rc 2)

/-- AES-128 encryption of one block. -/
def aes (key block : List Nat) : List Nat :=
  aesRounds 10 (List.zipWith (· ^^^ ·) block key) key 1

/-- Doubling in GF(2^128) of a big-endian block, as SP 800-38B makes its subkeys. -/
def dbl (b : List Nat) : List Nat :=
  let v := b.foldl (fun r x => 256 * r + x) 0
  let v' := if v ≥ 2 ^ 127 then (2 * v % 2 ^ 128) ^^^ 0x87 else 2 * v
  (List.range 16).map fun i => v' / 256 ^ (15 - i) % 256

/-- CMAC over the message's blocks. -/
def cmacBlocks (key k1 k2 : List Nat) : Nat → List Nat → List Nat → List Nat
  | 0, x, _ => x
  | n + 1, x, m =>
    if n = 0 then
      let l :=
        if m.length = 16 then List.zipWith (· ^^^ ·) m k1
        else List.zipWith (· ^^^ ·) (m ++ (128 :: List.replicate (15 - m.length) 0)) k2
      aes key (List.zipWith (· ^^^ ·) x l)
    else cmacBlocks key k1 k2 n (aes key (List.zipWith (· ^^^ ·) x (m.take 16))) (m.drop 16)

/-- AES-128-CMAC of SP 800-38B, 16 bytes (R152). -/
def cmac (key msg : List Nat) : List Nat :=
  let k1 := dbl (aes key (List.replicate 16 0))
  let k2 := dbl k1
  cmacBlocks key k1 k2 (max 1 ((msg.length + 15) / 16)) (List.replicate 16 0) msg

end Sys2Proof.Machine
end

