-- ==== Sys2Proof/Machine/Ops.lean ====
section
/-! DEFINITION. The shared operations: raising events (chapter 24), the completion and event rings, status block and
vectors (chapter 10), memory accesses under regions (chapter 12), alive tests (chapter 13), and the frames in which every
meaning stands (`onDie`, `onMod`). -/

namespace Sys2Proof.Machine

/-- Event codes of severity critical (R375). -/
def criticalCodes : List Nat := [0x07, 0x10, 0x12, 0x2F, 0x43, 0x54, 0x72, 0x75, 0x76, 0xB0, 0xD9, 0xE0]

/-- Event codes of severity error (R375). -/
def errorCodes : List Nat :=
  [0x15, 0x24, 0x2D, 0x31, 0x32, 0x35, 0x3A, 0x44, 0x48, 0x51, 0x53, 0x60, 0x64, 0x65, 0x70, 0x74] ++
  [0x83, 0x84, 0x89, 0x91, 0x94, 0xA0, 0xA6, 0xA9, 0xAA, 0xAB, 0xC1, 0xD2, 0xD3, 0xD6, 0xD7, 0xE3]

/-- Event codes of severity info (R375). -/
def infoCodes : List Nat :=
  [0x08, 0x09, 0x0A, 0x0B, 0x0C, 0x11, 0x14, 0x22, 0x25, 0x26, 0x2A, 0x2C, 0x40, 0x4A, 0x4B, 0x55] ++
  [0x63, 0x71, 0x82, 0x85, 0x90, 0x92, 0x98, 0xB1, 0xC0, 0xD0, 0xD4, 0xD5, 0xE1, 0xF0, 0xF2]

/-- Severity of an event code: 0 info, 1 warning, 2 error, 3 critical (R375). -/
def severity (code : Nat) : Nat :=
  if criticalCodes.contains code then 3
  else if errorCodes.contains code then 2
  else if infoCodes.contains code then 0
  else 1

/-- Entries of a ring from its LOG2 field: below 4 acts as 4, above 12 as 12 (HIF_RING_SIZE). -/
def ringSize (log2 : Nat) : Nat := 2 ^ min 12 (max 4 log2)

/-- PHASE of entry count `t` in a ring of `n` (R189). -/
def phaseBit (t n : Nat) : Nat := if t / n % 2 = 0 then 1 else 0

/-- A 64-bit base from its LO and HI registers. -/
def Die.base64 (x : Die) (off : Nat) : Nat := (x.reg off).toNat + 2 ^ 32 * (x.reg (off + 4)).toNat

/-- Whether the event ring has space (R192). -/
def Die.evtSpace (x : Die) : Bool := (x.hif.evtTail - x.hif.evtHead).toNat < ringSize (x.get F.evtLog2)

/-- Whether the completion ring has space (R191). -/
def Die.cmpSpace (x : Die) : Bool := (x.hif.cmpTail - x.hif.cmpHead).toNat < ringSize (x.get F.cmpLog2)

/-- Ask for an MSI-X vector at the end of the command (R178, R179). -/
def Die.vector (x : Die) (v : Nat) : Die := { x with hif := { x.hif with vecs := x.hif.vecs ++ [v] } }

/-- The event entry's 16 bytes (R192) (DEDUCED, assumption 48). -/
def eventBytes (d : DieId) (e : Event) (eseq phase : Nat) : List Byte :=
  le 1 e.code ++ le 1 (severity e.code + 4 * dieBit d) ++ le 6 e.time ++ le 4 e.detail ++ le 2 eseq ++ [0] ++
    le 1 phase

/-- Write an entry to the event ring and ask for its vector (R178, R179, R192). -/
def Die.writeEvent (x : Die) (e : Event) : Die :=
  let n := ringSize (x.get F.evtLog2)
  let t := x.hif.evtTail.toNat
  let x := x.emit (.hostWrite (x.base64 0x2028 + 16 * (t % n))
    (eventBytes x.id e (x.get F.evtSeq) (phaseBit t n)) false false)
  let x := x.put F.evtSeq (x.get F.evtSeq + 1)
  let x := { x with hif := { x.hif with evtTail := x.hif.evtTail + 1 } }
  x.vector (if severity e.code < 2 then 1 else 2)

/-- An event that cannot be written: dropped and counted, or coalesced into HIF_STICKY where it is critical (R192, R377). -/
def Die.dropEvent (x : Die) (e : Event) : Die :=
  if severity e.code = 3 then
    let x := x.put F.stickyRanges (x.get F.stickyRanges ||| 2 ^ (e.code / 16))
    (x.bump F.stickyCount).vector 2
  else x.bump F.evtDrop

/-- Hand an event to the ring, or to the backlog while the link is down, in D3hot or before HIF_ENABLE (R192, R195, R196,
R369). -/
def Die.deliver (x : Die) (e : Event) : Die :=
  if x.hif.logging || x.hif.d3hot then
    if x.hif.backlog.length < 64 then { x with hif := { x.hif with backlog := x.hif.backlog ++ [e] } }
    else
      let x := x.dropEvent e
      { x with hif := { x.hif with logLost := x.hif.logLost + 1 } }
  else if x.hif.backlog.isEmpty && x.evtSpace then x.writeEvent e
  else
    let x := (x.dropEvent e).flag F.evtFull true
    { x with hif := { x.hif with lost := x.hif.lost + 1 } }

/-- EVT_LAST, EVT_LAST_DETAIL and EVT_RAISED follow every raise (R376). -/
def Die.noteEvent (x : Die) (code detail : Nat) : Die :=
  let x := (x.put F.evtCode code).put F.evtSev (severity code)
  (x.put F.evtDetail detail).bump (F.evtRaised (code / 16 % 16))

/-- Whether EVT_MASK keeps the code from being written; critical events ignore the mask (R376). -/
def Die.masked (x : Die) (code : Nat) : Bool :=
  severity code != 3 && bitAt (x.get (F.evtMask (code / 32))) (code % 32)

/-- A raise takes effect: the EVT registers follow it, and its entry goes to the ring unless it is masked or its rate limit
holds it back (R375, R376). -/
def Die.raiseNow (x : Die) (code detail : Nat) (entry : Bool) : Die :=
  let m := x.masked code
  let x := x.noteEvent code detail
  if m || !entry then x else x.deliver ⟨code, x.ns % 2 ^ 48, detail % 2 ^ 32⟩

/-- Note a raise of this command (R375). The raises of one command are those of one CCLK. -/
def Die.note (x : Die) (code detail : Nat) (entry : Bool) : Die :=
  { x with hif := { x.hif with raised := x.hif.raised ++ [(code, detail, entry)] } }

/-- Raise an event (R375, R376). -/
def Die.raise (x : Die) (code : Nat) (detail : Nat := 0) : Die := x.note code detail true

/-- Place a raise behind every one of no higher code. -/
def insertRaise (r : Nat × Nat × Bool) : List (Nat × Nat × Bool) → List (Nat × Nat × Bool)
  | [] => [r]
  | q :: t => if q.1 ≤ r.1 then q :: insertRaise r t else r :: q :: t

/-- The raises of a command take effect in ascending code order (collisions of chapter 24). -/
def Die.raiseAll (x : Die) : Die :=
  let rs := x.hif.raised.foldl (fun l r => insertRaise r l) []
  rs.foldl (fun x r => x.raiseNow r.1 r.2.1 r.2.2) { x with hif := { x.hif with raised := [] } }

/-- One millisecond, and one second, in CCLK. -/
def msCclk : Nat := 400000
def secCclk : Nat := 400000000

/-- Raise an event that its rule limits to once per `period` CCLK for each `key` (R375, R376). A suppressed recurrence is
a raise without an entry. -/
def Die.raiseLim (x : Die) (period key code : Nat) (detail : Nat := 0) : Die :=
  match look x.limits (256 * code + key) with
  | some t =>
    if x.cclk < t + period then x.note code detail false
    else { x with limits := assoc x.limits (256 * code + key) x.cclk }.raise code detail
  | none => { x with limits := assoc x.limits (256 * code + key) x.cclk }.raise code detail

/-- Detail word O of R375: offset and low 16 bits of the refused value. -/
def refusedDetail (off : Nat) (v : Word) : Nat := off % 2 ^ 16 + 2 ^ 16 * (v.toNat % 2 ^ 16)

/-- The completion entry's 16 bytes (R189). -/
def completionBytes (d : Done) (seq phase : Nat) : List Byte :=
  le 2 seq ++ [d.cmd.opcode] ++ le 1 d.status ++ d.cmd.tag ++ le 4 d.detail ++ le 2 d.cmd.index.toNat ++ [0] ++
    le 1 phase

/-- CMP_FULL is set once the completion ring has no space (R191). -/
def Die.noteFull (x : Die) : Die := if x.cmpSpace then x else x.flag F.cmpFull true

/-- Write a completion entry (R189) and ask for vector 0 where R179 has it. CMP_FULL is set with the entry that fills the ring
(R191). -/
def Die.writeCompletion (x : Die) (d : Done) : Die :=
  let n := ringSize (x.get F.cmpLog2)
  let t := x.hif.cmpTail.toNat
  let x := x.emit (.hostWrite (x.base64 0x2020 + 16 * (t % n)) (completionBytes d (x.get F.cmpSeq) (phaseBit t n))
    false false)
  let x := x.put F.cmpSeq (x.get F.cmpSeq + 1)
  let x := { x with hif := { x.hif with cmpTail := x.hif.cmpTail + 1 } }
  let x := x.noteFull
  if d.cmd.irq || x.on F.cmpEvery then x.vector 0 else x

/-- Something waits for space in the full completion ring: CMP_RING_STALL is raised once per stall (R191). -/
def Die.stall (x : Die) : Die :=
  let x := x.flag F.cmpFull true
  if x.hif.stalled then x else { x with hif := { x.hif with stalled := true } }.raise 0x51

/-- A command finishes: its completion is written, or held while the ring is full (R191). -/
def Die.complete (x : Die) (c : Cmd) (status : Nat) (detail : Nat := 0) : Die :=
  if x.hif.logging then x
  else if x.hif.held.isEmpty && x.cmpSpace && !x.hif.d3hot then x.writeCompletion ⟨c, status, detail⟩
  else
    let x := { x with hif := { x.hif with held := x.hif.held ++ [⟨c, status, detail⟩] } }
    if x.cmpSpace then x else x.stall

/-- A command that may have come from the ring finishes. -/
def Die.completeOpt (x : Die) (c : Option Cmd) (status : Nat) (detail : Nat := 0) : Die :=
  match c with
  | some c => x.complete c status detail
  | none => x

/-- An engine command finishes; one of a link that has been lost writes no completion (R195). -/
def Die.completeJob (x : Die) (j : Job) (status : Nat) (detail : Nat := 0) : Die :=
  if j.live then x.complete j.cmd status detail else x

/-- Write the completions that wait, as far as the ring has space (R191). -/
def Die.writeHeld : Nat → Die → Die
  | 0, x => x
  | n + 1, x =>
    match x.hif.held with
    | [] => x
    | d :: t =>
      if x.cmpSpace then
        Die.writeHeld n ({ x with hif := { x.hif with held := t } }.writeCompletion d)
      else x

/-- Write the backlog as far as the ring has space (R195, R369). -/
def Die.writeBacklog : Nat → Die → Die
  | 0, x => x
  | n + 1, x =>
    match x.hif.backlog with
    | [] => x
    | e :: t =>
      if x.evtSpace then Die.writeBacklog n ({ x with hif := { x.hif with backlog := t } }.writeEvent e)
      else x

/-- EVENTS_LOST is raised as the first entry after space returns (R192, R195), for the events of the ring and those of the
backlog alike. -/
def Die.eventsLost (x : Die) : Die :=
  let n := x.hif.lost + x.hif.logLost
  if n = 0 then x
  else { x with hif := { x.hif with lost := 0, logLost := 0 } }.raiseNow 0x52 (min n 0xFFFFFFFF) true

/-- The status block's fields but for TIME and ALIVE (R181). -/
def Die.sbFields (x : Die) : List Nat :=
  [x.get F.hifCmdHead, x.hif.cmpTail.toNat, x.hif.evtTail.toNat, (x.reg 0x203C).toNat, x.get F.evtDrop,
   x.power.code,
   b2n (x.on F.hifWaiting) + 2 * b2n (x.on F.cmpFull) + 4 * b2n (x.on F.evtFull) + 8 * b2n (x.on F.hifOverrun)]

/-- The status block's 64 bytes (R181). -/
def Die.statusBlock (x : Die) : List Byte :=
  let f (i : Nat) : Nat := x.sbFields.getD i 0
  le 2 (f 0) ++ le 2 (f 1) ++ le 2 (f 2) ++ le 2 0 ++ le 4 (f 3) ++ le 4 (f 4) ++ le 8 x.ns ++ le 1 (f 5) ++
    le 1 (f 6) ++ List.replicate 36 0 ++ le 2 x.hif.sbAlive.toNat

/-- Write the status block (R181); in D3hot it waits for D0 (R196). -/
def Die.writeStatus (x : Die) : Die :=
  if x.hif.d3hot then { x with hif := { x.hif with sbDue := true } }
  else
    let x := x.emit (.hostWrite (x.base64 0x2010) x.statusBlock false false)
    { x with hif := { x.hif with sbAlive := x.hif.sbAlive + 1, sbDue := false } }

/-- The MSI-X table at reset: every entry masked (R388). -/
def msixReset (i : Nat) : Word := if i % 4 = 3 then 1 else 0

/-- Send a vector, or set its pending bit while it or the function is masked (R179) (DEDUCED, assumption 42). -/
def Die.sendVector (x : Die) (v : Nat) : Die :=
  let word (i : Nat) : Word := smGet msixReset x.hif.msix (4 * v + i)
  if !x.hif.link.msixEnable || x.hif.link.msixMask || (word 3).toNat % 2 = 1 then
    { x with hif := { x.hif with pba := x.hif.pba ||| 2 ^ v } }
  else
    let x := if x.get F.holdoffUs = 0 then x
      else { x with hif := { x.hif with holdoff := assoc x.hif.holdoff v false } }
    x.emit (.msix v ((word 0).toNat + 2 ^ 32 * (word 1).toNat) (word 2))

/-- Vectors that are pending and no longer masked are sent (R179) (DEDUCED, assumption 42). -/
def Die.sendPending (x : Die) : Die :=
  ((List.range 32).filter fun v => bitAt x.hif.pba v).foldl (fun (x : Die) v =>
    { x with hif := { x.hif with pba := x.hif.pba - 2 ^ v } }.sendVector v) x

/-- One occurrence for a vector: sent, or merged into the message at the end of its holdoff (R179). -/
def Die.occur (x : Die) (v : Nat) : Die :=
  match look x.hif.holdoff v with
  | some _ => { x with hif := { x.hif with holdoff := assoc x.hif.holdoff v true } }
  | none => x.sendVector v

/-- The end of a command: the events, the status block where a field has changed, then the vectors (R178, R181). `old` is
the die before the command. In D3hot the status block waits for D0 (R196). -/
def Die.finish (old x : Die) : Die :=
  let x := x.raiseAll
  let x := if !x.hif.logging && (x.hif.sbDue || x.sbFields != old.sbFields) then x.writeStatus else x
  let vs := if x.hif.d3hot then [] else x.hif.vecs.eraseDups
  let x := { x with hif := { x.hif with vecs := if x.hif.d3hot then x.hif.vecs else [] } }
  vs.foldl (fun x v => if x.hif.logging then x else x.occur v) x

/-- What a die's meaning may read beside the die itself: the module, the other die's power state, which the keeper reports
(R171), and whether the other die still waits to lock to REFCLK (R78). -/
structure Ctx where
  mod  : Module
  peer : Power
  /-- The other die has lost REFCLK with the stitch not UP and has not locked to it again (R78). -/
  barred : Bool
deriving DecidableEq, Repr

/-- The die named. -/
def State.die (s : State) (d : DieId) : Die := match d with | .W => s.w | .E => s.e

/-- Replace the die named. -/
def State.setDie (s : State) (d : DieId) (x : Die) : State :=
  match d with | .W => { s with w := x } | .E => { s with e := x }

/-- The outcome type of every meaning. -/
abbrev Result := Host.Outcome State Fault Refusal

/-- A command at one die. Its outputs replace the last command's; a die without power does nothing (R54, assumption 5), nor
does one that the bulk capacitance holds up after the input switch has opened (R24, R33, R55). Neither the other die, nor the
module, nor the queue changes (R16) (DESIGN CHOICE, assumption 4). -/
def onDie (s : State) (d : DieId) (f : Ctx → Die → Die) : Result :=
  let x := { s.die d with out := [] }
  if s.mod.runs then
    .next (s.setDie d (x.finish (f ⟨s.mod, (s.die d.other).power, (s.die d.other).sti.barred⟩ x)))
  else .next (s.setDie d x)

/-- An event of the module as a whole. It may change the module and both dies; the queue stays. The dies' reports go out while
the dies run, the step that ends this included (R52, R55) (DESIGN CHOICE, assumption 4). (DEDUCED, assumption 5). -/
def onMod (s : State) (f : State → State) : Result :=
  let s0 : State := { s with mod := { s.mod with out := [] }, w := { s.w with out := [] }, e := { s.e with out := [] } }
  let s1 := f s0
  .next { s1 with
    w := if s.mod.runs || s1.mod.runs then s0.w.finish s1.w else s1.w
    e := if s.mod.runs || s1.mod.runs then s0.e.finish s1.e else s1.e
    pending := s.pending }

/-- Whether region `r` of master `m` permits an access (R218). `kind`: 0 read, 1 write, 2 atomic. -/
def Die.regionPermits (x : Die) (m r : Nat) (dram : Bool) (addr len kind : Nat) : Bool :=
  let fl := x.get (F.rgnFlags (8 * m + r))
  let base := 4096 * x.get (F.rgnBase (8 * m + r))
  let size := 4096 * x.get (F.rgnSize (8 * m + r))
  bitAt fl 0 && (bitAt fl 1 == dram) && bitAt fl (2 + kind) && base ≤ addr && addr + len ≤ base + size

/-- Whether an access is permitted (R214, R218): one region covers it whole and grants it, within the scratch banks or below the check
bytes. -/
def Die.permits (x : Die) (m : Nat) (dram : Bool) (addr len kind : Nat) : Bool :=
  decide (addr + len ≤ if dram then 0x70000000 else 0x800000) && (List.range 8).any fun r => x.regionPermits m r dram addr len kind

/-- A refused access: counted, latched, and raised at most once per ms per master (R219). -/
def Die.violation (x : Die) (m : Nat) (dram : Bool) (addr kind : Nat) : Die :=
  let info := m % 16 + 16 * kind + 64 * b2n dram
  let x := x.bump F.violCount
  let x := if x.mem.violHeld then x
    else { (x.put F.violAddr addr).put F.violInfo info with mem := { x.mem with violHeld := true } }
  x.raiseLim msCclk m 0x70 (info + 128 * (addr / 64 % 2 ^ 25))

/-- Bytes of a memory without any check. -/
def Die.peek (x : Die) (dram : Bool) (addr n : Nat) : List Byte :=
  if dram then Memory.readN 0 x.mem.dram addr n else Memory.readN 0 x.mem.scratch addr n

/-- Write bytes of a memory without any check. A word written whole loses its uncorrectable error (R225). -/
def Die.poke (x : Die) (dram : Bool) (addr : Nat) (bs : List Byte) : Die :=
  let whole (w : Nat) : Bool := addr ≤ w && w + 32 ≤ addr + bs.length
  if dram then
    { x with mem := { x.mem with
        dram := Memory.writeN 0 x.mem.dram addr bs, dramUe := x.mem.dramUe.filter (fun w => !whole w) } }
  else
    { x with mem := { x.mem with
        scratch := Memory.writeN 0 x.mem.scratch addr bs,
        scratchUe := x.mem.scratchUe.filter (fun w => !whole w) } }

/-- The pieces of an address range that lie in one 32-byte word each: accesses with byte enables (R214). -/
def wordPieces : Nat → Nat → Nat → List (Nat × Nat)
  | 0, _, _ => []
  | fuel + 1, addr, n =>
    if n = 0 then []
    else
      let k := min n (32 - addr % 32)
      (addr, k) :: wordPieces fuel (addr + k) (n - k)

/-- The naturally aligned accesses of 1 to 32 bytes that cover an address range (R207, R214). -/
def natPieces : Nat → Nat → Nat → List (Nat × Nat)
  | 0, _, _ => []
  | fuel + 1, addr, n =>
    if n = 0 then []
    else
      let k := ([32, 16, 8, 4, 2].find? fun k => addr % k == 0 && decide (k ≤ n)).getD 1
      (addr, k) :: natPieces fuel (addr + k) (n - k)

/-- The accesses that a range takes: naturally aligned ones where it is `narrow`, else words with byte enables (R214). -/
def pieces (narrow : Bool) (addr n : Nat) : List (Nat × Nat) :=
  if narrow then natPieces (n / 32 + 12) addr n else wordPieces (n / 32 + 2) addr n

/-- What a refused read returns: 0x0BAD_0BAD in every 32-bit lane of its data (R219). -/
def badBytes (addr n : Nat) : List Byte :=
  (List.range n).map fun i => if (addr + i) % 2 = 0 then 0xAD else 0x0B

/-- Word addresses that a range touches. -/
def wordsOf (addr n : Nat) : List Nat := (wordPieces (n / 32 + 2) addr n).map fun p => p.1 - p.1 % 32

/-- The words of a list that lie in a range. -/
def wordsIn (ws : List Nat) (r : Nat × Nat) : List Nat := ws.filter fun w => r.1 < w + 32 && w < r.1 + r.2

/-- Number of words that a range touches. -/
def wordCount (addr n : Nat) : Nat := if n = 0 then 0 else (addr + n + 31) / 32 - addr / 32

/-- Count words read from DRAM and written to it in this frame period (DRC_BW_RD, DRC_BW_WR). -/
def Die.traffic (x : Die) (dram : Bool) (rd wr : Nat) : Die :=
  if dram then { x with mem := { x.mem with wordsRd := x.mem.wordsRd + rd, wordsWr := x.mem.wordsWr + wr } } else x

/-- The words of a written range that are not written whole: each costs the DRC a read as well (R221). -/
def partWords (addr n : Nat) : Nat := wordCount addr n - ((addr + n) / 32 - (addr + 31) / 32)

/-- Read a range as a master, by naturally aligned accesses where no one region covers it (R214, R218, R219). -/
def Die.readAs (x : Die) (m : Nat) (dram : Bool) (addr n : Nat) : List Byte × Die :=
  if x.permits m dram addr n 0 then (x.peek dram addr n, x.traffic dram (wordCount addr n) 0)
  else
    (pieces true addr n).foldl
      (fun (acc, x) p =>
        if x.permits m dram p.1 p.2 0 then (acc ++ x.peek dram p.1 p.2, x.traffic dram (wordCount p.1 p.2) 0)
        else (acc ++ badBytes p.1 p.2, x.violation m dram p.1 0))
      ([], x)

/-- The pieces of a write that the regions of a master permit, with the refused ones noted (R218, R219). -/
def Die.grantWrite (x : Die) (m : Nat) (dram narrow : Bool) (addr n : Nat) : List (Nat × Nat) × Die :=
  if x.permits m dram addr n 1 then ([(addr, n)], x)
  else
    (pieces narrow addr n).foldl
      (fun (ps, x) p => if x.permits m dram p.1 p.2 1 then (ps ++ [p], x) else (ps, x.violation m dram p.1 1))
      ([], x)

/-- Write a range as a master, by words with byte enables where no one region covers it (R214, R218, R219, R221). -/
def Die.writeAs (x : Die) (m : Nat) (dram : Bool) (addr : Nat) (bs : List Byte) : Die :=
  let g := x.grantWrite m dram false addr bs.length
  g.1.foldl (fun (x : Die) p =>
    (x.poke dram p.1 (bytesAt bs (p.1 - addr) p.2)).traffic dram (partWords p.1 p.2) (wordCount p.1 p.2)) g.2

/-- The operations of R217. -/
inductive Atomic where
  | addWrap
  | addSat
  | swap
deriving DecidableEq, Repr

/-- Stored result of an atomic of `n` bits (R217). -/
def Atomic.apply (a : Atomic) (n old v : Nat) : Nat :=
  match a with
  | .addWrap => (old + v) % 2 ^ n
  | .addSat => min (old + v) (2 ^ n - 1)
  | .swap => v % 2 ^ n

/-- An atomic of `n` bits, 32 or 64, on a naturally aligned scratch word (R217, R219): the old value, or what a refused one
returns. An ADD_SAT that saturates is counted. -/
def Die.atomic (x : Die) (m : Nat) (a : Atomic) (n addr v : Nat) : Nat × Die :=
  if x.permits m false addr (n / 8) 2 then
    let old := ofLe (x.peek false addr (n / 8))
    let x := if a == .addSat && decide (2 ^ n ≤ old + v) then x.bump F.satCount else x
    (old, x.poke false addr (le (n / 8) (a.apply n old v)))
  else (ofLe (badBytes addr (n / 8)), x.violation m false addr 2)

/-- The largest memory write and the largest read request that the endpoint sends, in bytes (R176). -/
def Die.maxPayload (x : Die) : Nat := 128 * 2 ^ x.hif.link.mps.val
def Die.maxRead (x : Die) : Nat := min (128 * 2 ^ x.hif.link.mrrs.val) 1024

/-- The pieces of a host address range that cross no multiple of `k` (R176). -/
def tlpPieces (k : Nat) : Nat → Nat → Nat → List (Nat × Nat)
  | 0, _, _ => []
  | fuel + 1, addr, n =>
    if n = 0 then []
    else
      let l := min n (k - addr % k)
      (addr, l) :: tlpPieces k fuel (addr + l) (n - l)

/-- Memory writes of a host address range, each within the payload size; `bad` says which offsets are poisoned (R176, R208). -/
def Die.writeHost (x : Die) (addr : Nat) (bs : List Byte) (ro : Bool) (bad : Nat → Bool) : Die :=
  (tlpPieces x.maxPayload (bs.length / 128 + 2) addr bs.length).foldl (fun (x : Die) p =>
    x.emit (.hostWrite p.1 (bytesAt bs (p.1 - addr) p.2) ro ((List.range p.2).any fun i => bad (p.1 - addr + i)))) x

/-- Read requests for a host address range, each within the read request size (R176, R207). -/
def Die.readHost (x : Die) (addr n : Nat) : Die :=
  (tlpPieces x.maxRead (n / 128 + 2) addr n).foldl (fun (x : Die) p => x.emit (.hostRead p.1 p.2)) x

/-- An uncorrectable DRAM word met by master `m` (R225). -/
def Die.dramUe (x : Die) (m w : Nat) : Die :=
  let x := (x.bump F.ueCount).put F.errAddr (w / 32)
  (x.flag F.errUe true).raise 0x72 (m % 16 + 2 ^ 6 * (w / 32 % 2 ^ 26))

/-- A correctable DRAM word (R224). -/
def Die.dramCe (x : Die) (m w : Nat) : Die :=
  let x := (x.bump F.ceCount).put F.errAddr (w / 32)
  (x.flag F.errUe false).raiseLim secCclk 0 0x71 (m % 16 + 2 ^ 6 * (w / 32 % 2 ^ 26))

/-- A scratch word with a double-bit error (R216). -/
def Die.scratchUeRaise (x : Die) (addr : Nat) : Die := (x.bump F.scbUe).raise 0x76 (addr / 32 % 2 ^ 18 * 32)

/-- Words found uncorrectable stay so until they are written whole. -/
def Die.noteUe (x : Die) (m : Nat) (ws : List Nat) : Die :=
  ws.foldl (fun x w =>
    let x : Die := { x with mem := { x.mem with dramUe := if x.mem.dramUe.contains w then x.mem.dramUe else x.mem.dramUe ++ [w] } }
    x.dramUe m w) x

/-- Correctable words met by master `m` (R224). -/
def Die.noteCe (x : Die) (m : Nat) (ws : List Nat) : Die := ws.foldl (fun (x : Die) w => x.dramCe m w) x

/-- Scratch words found uncorrectable stay so until they are written whole (R216). -/
def Die.noteSue (x : Die) (ws : List Nat) : Die :=
  ws.foldl (fun (x : Die) w =>
    { x with mem := { x.mem with
        scratchUe := if x.mem.scratchUe.contains w then x.mem.scratchUe else x.mem.scratchUe ++ [w] } }.scratchUeRaise w) x

/-- Result of the alive test (R233). -/
inductive AliveResult where
  | accepted
  | gap (n : Nat)
  | repeated
deriving DecidableEq, Repr

/-- The alive test of R233: a unit's counter against the key's LAST. -/
def aliveTest (last : Option (BitVec 16)) (a : BitVec 16) : AliveResult :=
  match last with
  | none => .accepted
  | some l =>
    let d := (a - l).toNat
    if d = 1 then .accepted
    else if 2 ≤ d && d ≤ 32767 then .gap (d - 1)
    else .repeated

/-- CVU instance numbers (R228): L, T, D, S, B, H. -/
def cvuSel (x : Die) (i : Nat) : Nat := bits (x.reg 0x3800).toNat (4 * i) 3

/-- The alive test on receive, with its counts and the new LAST (R233). -/
def Die.alive (x : Die) (inst : Nat) (key : AliveKey) (a : BitVec 16) : AliveResult × Die :=
  match aliveTest (look x.pcl.rxAlive key) a with
  | .repeated => (.repeated, x.bump (F.cvuRepeat inst))
  | r =>
    let x := match r with | .gap n => x.bump (F.cvuGap inst) n | _ => x
    (r, { x with pcl := { x.pcl with rxAlive := assoc x.pcl.rxAlive key a } })

/-- A transmit alive counter: the value to send, and the counters after it (R232). -/
def nextAlive (m : List (Nat × BitVec 16)) (key : Nat) : BitVec 16 × List (Nat × BitVec 16) :=
  let a := (look m key).getD 0
  (a, assoc m key (a + 1))

end Sys2Proof.Machine
end

