-- ==== Sys2Proof/Machine/Operands.lean ====
section
/-! DEFINITION. The operand forms: register words written through BAR0 (R4, R5, R387), parcel headers (R114, R115), the
lane-local blocks (R93, R94), wall commands (R146) and host command entries (R184). -/

namespace Sys2Proof.Machine

/-- Whether BAR0 blocks other than SYS, CLK and PWR are served: not before BOOT_DONE (R368) (DEDUCED, assumption 5). -/
def Die.barOpen (x : Die) : Bool := x.on F.bootDone

/-- The bits of a register that a write stores: RW, and RWS until the seal (R4). -/
def RegRow.stored (r : RegRow) (isSealed : Bool) : Nat := r.rw ||| (if isSealed then 0 else r.rws)

/-- A write of the bits of `v` that `mask` selects, under the access codes of the register (R4, R5): RW and RWS bits take
their value, W1C bits written 1 clear, every other bit stays. -/
def Die.store (x : Die) (off : Nat) (v : Word) (mask : Word := 0xFFFFFFFF) : Die :=
  match regRow off with
  | none => x
  | some r =>
    let m : Word := BitVec.ofNat 32 (r.stored (x.on F.sealed)) &&& mask
    let c : Word := BitVec.ofNat 32 r.w1c &&& mask &&& v
    x.setReg off (((x.reg off &&& ~~~m) ||| (v &&& m)) &&& ~~~c)

/-- Whether a write carries every field of the register at its stored value: it is then not refused and raises no event
(R387). -/
def Die.keeps (x : Die) (off : Nat) (v : Word) (mask : Word := 0xFFFFFFFF) : Bool :=
  match regRow off with
  | none => true
  | some r =>
    let m : Word := BitVec.ofNat 32 (r.rw ||| r.rws) &&& mask
    x.reg off &&& m == v &&& m

/-- A parcel's header field (R115). -/
def hdr (p : List Byte) (lo w : Nat) : Nat := bits (natAt p 0 15) lo w

def pType (p : List Byte) : Nat := hdr p 0 4
def pRetx (p : List Byte) : Bool := hdr p 4 1 != 0
def pAuth (p : List Byte) : Bool := hdr p 5 1 != 0
def pDst (p : List Byte) : Nat := hdr p 8 8
def pSrc (p : List Byte) : Nat := hdr p 16 8
def pDie (p : List Byte) : Nat := hdr p 24 2
def pOdie (p : List Byte) : Nat := hdr p 26 1
def pFrame (p : List Byte) : Nat := hdr p 32 48
def pSeq (p : List Byte) : Nat := hdr p 32 16
def pSlice (p : List Byte) : Nat := hdr p 80 9
def pCodec (p : List Byte) : Nat := hdr p 89 3
def pLen (p : List Byte) : Nat := hdr p 96 16

/-- Padding bytes of a parcel: (2 − LEN) mod 8 (R114). -/
def padOf (len : Nat) : Nat := (10 - len % 8) % 8

/-- Bytes of a parcel after its BTYPE (R114). -/
def parcelBytes (len : Nat) : Nat := 15 + len + padOf len + 6

/-- Data blocks of a parcel after its START block (R114). -/
def dataBlocks (len : Nat) : Nat := (len + padOf len + 14) / 8

/-- The payload of a parcel. -/
def payload (p : List Byte) : List Byte := bytesAt p 15 (pLen p)

/-- The alive counter of a parcel (R114). -/
def pAlive (p : List Byte) : BitVec 16 := BitVec.ofNat 16 (natAt p (15 + pLen p + padOf (pLen p)) 2)

/-- The bytes that a parcel's check value covers (R117). -/
def covered (p : List Byte) : List Byte := p.take (17 + pLen p + padOf (pLen p))

/-- Whether a parcel passes CVU-L under algorithm `code` (R117, R230). -/
def checkOk (code : Nat) (p : List Byte) : Bool :=
  decide (p.length = parcelBytes (pLen p)) && bytesAt p (17 + pLen p + padOf (pLen p)) 4 == cvuField code 4 (covered p)

/-- Build a header (R115). -/
def mkHeader (type : Nat) (retx auth : Bool) (dst src die odie tag slice codec len : Nat) : List Byte :=
  le 15 (type % 16 + 16 * b2n retx + 32 * b2n auth + 2 ^ 8 * (dst % 256) + 2 ^ 16 * (src % 256) + 2 ^ 24 * (die % 4) +
    2 ^ 26 * (odie % 2) + 2 ^ 32 * (tag % 2 ^ 48) + 2 ^ 80 * (slice % 2 ^ 9) + 2 ^ 89 * (codec % 8) +
    2 ^ 96 * (len % 2 ^ 16))

/-- Close a parcel, from header and payload: padding, alive counter and check value (R114, R117, R230). -/
def sealParcel (code : Nat) (bs : List Byte) (alive : BitVec 16) : List Byte :=
  let c := bs ++ List.replicate (padOf (pLen bs)) 0 ++ le 2 alive.toNat
  c ++ cvuField code 4 c

/-- Next-hop class: 1 for DST 0xFE (R117). -/
def nextHop (p : List Byte) : Bool := pDst p == 0xFE

/-- Detail word of the parcel events (R118): `far` is the port reached through the stitch. -/
def parcelDetail (p : List Byte) (far : Bool) : Nat :=
  pType p + 16 * b2n far + 256 * pSrc p + (if pType p = 1 then 2 ^ 16 * pSlice p else 0)

/-- Codes of a die in the DIE field (R115): whether `d` is named. -/
def namesDie (die : Nat) (d : DieId) : Bool := die = dieBit d || die = 2

/-- Fields of a training block (R93) or a status block (R94). -/
def blk (b : BitVec 64) (lo w : Nat) : Nat := bits b.toNat lo w

end Sys2Proof.Machine

namespace Sys2Proof
open Machine

/-- Payload bytes of the stitch messages (R167). -/
def StiLock.bytes (m : StiLock) : List Byte :=
  le 6 m.frame ++ le 8 (m.start.getD 0) ++ le 2 (ofLe (Config.stiPayload 1 [b2n m.start.isSome, b2n m.ready]))
def StiTime.bytes (m : StiTime) : List Byte :=
  Config.stiPayload 2 ([m.hopsA.toNat, m.hopsB.toNat, dieBit m.port] ++ match m.sync with
    | some r => [r.master.toNat, r.mhops.toNat, r.syncSeq.toNat, r.mdist.toNat, r.origin.toNat, r.corr, r.flags.toNat, r.arrival]
    | none => [])
def StiStatus.bytes (m : StiStatus) : List Byte :=
  Config.stiPayload 4 [m.power.toNat, m.join.toNat, m.lanes.toNat, b2n m.woke, b2n m.refRestored, b2n m.quiet]
def StiBlotter.bytes (m : StiBlotter) : List Byte := Config.stiPayload 5 [m.frame, m.mismatch.toNat, m.armed.toNat]

/-- The header of a stitch message: CLASS in bits [3:0], LEN in bits [23:8] (R166). -/
def stiHeader (cls : Nat) (pay : List Byte) : BitVec 32 := BitVec.ofNat 32 (cls % 16 + 2 ^ 8 * (pay.length % 2 ^ 16))

/-- The check value of CVU-T under algorithm `code`, over header, payload and alive counter (R166, R229, R230, R232). -/
def stiCheck (code : Nat) (header : BitVec 32) (pay : List Byte) (alive : BitVec 16) : BitVec 32 :=
  BitVec.ofNat 32 (ofLe (cvuField code 4 (le 4 header.toNat ++ pay ++ le 2 alive.toNat)))

/-- What CVU-T puts around a payload (R166, R232). -/
def stiHead (code cls : Nat) (pay : List Byte) (alive : BitVec 16) : StiHead :=
  { header := stiHeader cls pay, alive := alive, check := stiCheck code (stiHeader cls pay) pay alive }

/-- Whether a stitch message passes CVU-T under algorithm `code` (R166, R230, R231). -/
def StiHead.passes (h : StiHead) (code : Nat) (pay : List Byte) : Bool := h.check == stiCheck code h.header pay h.alive

end Sys2Proof

namespace Sys2Proof.Machine

/-- Whether a lane-local block is a good TS. -/
def isTs (b : BitVec 64) : Bool := blk b 0 8 == 0xD2 && laneBlockOk b

/-- Whether a lane-local block is a good LS. -/
def isLs (b : BitVec 64) : Bool := blk b 0 8 == 0xD4 && laneBlockOk b

/-- Payload of a wall command without its tag (R146, R152). -/
def wallBody (p : List Byte) : List Byte :=
  if pAuth p then (payload p).take (pLen p - 8) else payload p

end Sys2Proof.Machine
end

