-- ==== Sys2Proof/Machine/Modes.lean ====
section
/-! DEFINITION. The mode table, the line period, the lattice and the raster rules (R235–R237), and the scan cycle against
them (R81, R313). Rates are n/d Hz; times are exact. -/

namespace Sys2Proof.Machine

/-- Rates n/d of the mode IDs 0x01–0x10 (R236). -/
def modeRates : List (Nat × Nat) :=
  [(24000, 1001), (24, 1), (25, 1), (30000, 1001), (30, 1), (48, 1), (50, 1), (60000, 1001),
   (60, 1), (72, 1), (90, 1), (100, 1), (120000, 1001), (120, 1), (144, 1), (240, 1)]

/-- The rate of a mode ID; none outside 0x01–0x10. -/
def modeRate (id : Nat) : Option (Nat × Nat) := if id = 0 then none else modeRates[id - 1]?

/-- The rate of a mode ID that has been stored; the ID of a stored TMG_MODE is always in range (R237). -/
def rateOf (id : Nat) : Nat × Nat := (modeRate id).getD (60, 1)

/-- LINE_CCLK for a rate and a total line count: ⌊T_min / (2.5 ns × V_TOTAL)⌋ (R235). -/
def lineCclkOf (r : Nat × Nat) (vt : Nat) : Nat := 2000000000 * r.2 / (5 * r.1 * vt)

/-- A period T as whole ns, rounded up: 10^9 × d / n. -/
def periodNs (r : Nat × Nat) : Nat := (1000000000 * r.2 + r.1 - 1) / r.1

/-- Lattice point Λk = ⌈k × 10^9 × d / n⌉ ns (R237). -/
def lattice (r : Nat × Nat) (k : Nat) : Nat := (k * 1000000000 * r.2 + r.1 - 1) / r.1

/-- Index of the first lattice point at or after time `t`: ⌈t × n / (10^9 d)⌉ when points are rounded up to whole ns. -/
def latticeIndex (r : Nat × Nat) (t : Nat) : Nat :=
  let k := t * r.1 / (1000000000 * r.2)
  if t ≤ lattice r k then k else k + 1

/-- The raster conditions of R235. -/
def rasterOk (w h vt id : Nat) : Bool :=
  match modeRate id with
  | none => false
  | some r =>
    16 ≤ w && w ≤ 1920 && h % 8 == 0 && 8 ≤ h && h ≤ 2160 && h + 8 ≤ vt && vt ≤ 8191 &&
      (2 * w + 2) / 3 ≤ lineCclkOf r vt && (h ≤ 1080 || r.1 ≤ 120 * r.2)

/-- Width, height, total lines and slices of the half. -/
def Die.width (x : Die) : Nat := x.get F.halfW
def Die.height (x : Die) : Nat := x.get F.halfH
def Die.slices (x : Die) : Nat := x.get F.halfH / 8

/-- Rate that gives T_min, and rate that gives T_max (R237). -/
def Die.rateMin (x : Die) : Nat × Nat := rateOf (x.get F.modeId)
def Die.rateMax (x : Die) : Nat × Nat := if x.on F.variable then rateOf (x.get F.slowId) else x.rateMin

/-- SEG_LOG2 as it acts: below 6 as 6, above 12 as 12 (CLK_GCLK_SEG). -/
def segClamp (v : Nat) : Nat := min 12 (max 6 v)

/-- The scan cycle in ns, rounded up: S × 2^SEG_LOG2 / f_GCLK with f = FWORD × 25 MHz / 2^20 (R81, R313). -/
def scanNs (s seg fword : Nat) : Nat := if fword = 0 then 0 else (s * 2 ^ seg * 2 ^ 20 * 40 + fword - 1) / fword

/-- Whether a scan cycle breaks R313: it is not at least 10 µs shorter than T_min. -/
def scanTooSlow (s seg fword : Nat) (r : Nat × Nat) : Bool :=
  1000000000 * r.2 * fword < s * 2 ^ seg * 2 ^ 20 * 40 * r.1 + 10000 * fword * r.1

/-- Scan ratio S. -/
def Die.scanRatio (x : Die) : Nat := x.get F.sM1 + 1

/-- LDB_SCAN_SLOW after a GCLK switch that breaks R313: the scan cycle in µs in detail [23:0]. -/
def Die.scanCheck (x : Die) : Die :=
  if x.on F.ldbEn && scanTooSlow x.scanRatio x.clk.seg (x.get F.gclkCur) x.rateMin then
    x.raise 0xA9 (scanNs x.scanRatio x.clk.seg (x.get F.gclkCur) / 1000 % 2 ^ 24)
  else x

/-- Whether a standing cause permits SILLAGE-DEEP (R326). -/
def Die.deepAllowed (x : Die) : Bool :=
  (x.on F.silHost && x.on F.silHostDeep) || (x.on F.silWall && x.on F.wallDeep) || (x.on F.silIdle && x.on F.idleDeep)

end Sys2Proof.Machine
end

