-- ==== Sys2Proof/Machine/Records.lean ====
section
/-! DEFINITION. The compensation store as data: the layout of the flash, records and record sets, which of two copies is taken
(R355–R359), and the log code of a wear counter (R283). -/

namespace Sys2Proof.Machine

/-- Bytes of the flash; an erased byte reads 0xFF (DESIGN CHOICE, assumption 8). -/
def Die.flashRead (x : Die) (a n : Nat) : List Byte := Memory.readN 0xFF x.cst.flash a n

/-- Write bytes of the flash. -/
def Die.flashWrite (x : Die) (a : Nat) (bs : List Byte) : Die :=
  { x with cst := { x.cst with flash := Memory.writeN 0xFF x.cst.flash a bs } }

/-- Bytes of a block (R355). -/
def flashBlock : Nat := 65536

/-- A block reads 0xFF throughout. -/
def Die.flashErase (x : Die) (block : Nat) : Die :=
  { x with cst := { x.cst with flash := x.cst.flash.filter fun c => c.1 / flashBlock != block } }

/-- First block of map copy `c` (R355). -/
def mapBlock (c : Nat) : Nat := if c = 0 then 8 else 1160

/-- First block of copy `c` of ledger part `p` (R355). -/
def partBlock (p c : Nat) : Nat := 2312 + 34 * p + 17 * c

/-- Payload bytes of a record but for the last of its set (R356). -/
def plenMax : Nat := 65472

/-- The 64 header bytes of the record in a block (R356). -/
def Die.recHead (x : Die) (block : Nat) : List Byte := x.flashRead (block * flashBlock) 64

/-- Whether a block starts as a record (R356). -/
def Die.isRecord (x : Die) (block : Nat) : Bool := bytesAt (x.recHead block) 0 4 == [0x43, 0x53, 0x54, 0x52]

def rKind (h : List Byte) : Nat := natAt h 4 1
def rLast (h : List Byte) : Bool := bitAt (natAt h 5 1) 0
def rGen (h : List Byte) : Nat := natAt h 6 2
def rKey (h : List Byte) : List Byte := bytesAt h 8 16
def rIndex (h : List Byte) : Nat := natAt h 24 2
def rCount (h : List Byte) : Nat := natAt h 26 2
def rPlen (h : List Byte) : Nat := natAt h 28 4
def rTotal (h : List Byte) : Nat := natAt h 32 4
def rPart (h : List Byte) : Nat := natAt h 42 2
def rW (h : List Byte) : Nat := natAt h 44 2
def rH (h : List Byte) : Nat := natAt h 46 2

/-- Whether the engine's operation is a block erase under way. -/
def StoreOp.erasing : StoreOp → Bool
  | .erase _ _ => true
  | .part _ _ _ _ erased => !erased
  | .refresh _ _ erased => !erased
  | .idle | .program _ _ _ => false

/-- The flash bytes that an operation under way writes or erases: address and number. -/
def StoreOp.target : StoreOp → Nat × Nat
  | .idle => (0, 0)
  | .program base data _ => (base, data.length)
  | .erase b _ => (b * flashBlock, flashBlock)
  | .part p c i _ _ => ((partBlock p c + i) * flashBlock, flashBlock)
  | .refresh b _ _ => (b * flashBlock, flashBlock)

/-- Whether block `b` is being erased: its contents are no longer served (R362, collisions of chapter 22). (DESIGN
CHOICE, assumption 32). -/
def Die.underErase (x : Die) (b : Nat) : Bool := x.cst.op.erasing && x.cst.op.target.1 == b * flashBlock

/-- What STORE_READ finds in `n` flash bytes from `a` on: those that an operation under way erases or programs are open (DESIGN
CHOICE, assumption 32). -/
def Die.flashSeen (x : Die) (a n : Nat) : List Byte × Die :=
  let t := x.cst.op.target
  if t.1 < a + n && a < t.1 + t.2 then
    ((List.range n).map fun i =>
      if t.1 ≤ a + i && a + i < t.1 + t.2 then Config.freeByte (x.free + i) else Memory.read 0xFF x.cst.flash (a + i),
      { x with free := x.free + n })
  else (x.flashRead a n, x)

/-- CVU-S over a record's bytes 0–59 and payload (R356, R230). -/
def recCheck (code : Nat) (h pay : List Byte) : List Byte := cvuField code 4 (h.take 60 ++ pay)

/-- Whether the record in a block passes CVU-S (R357). A block under erase holds none. -/
def Die.recordOk (x : Die) (block : Nat) : Bool :=
  let h := x.recHead block
  !x.underErase block && x.isRecord block && decide (rPlen h ≤ plenMax) &&
    bytesAt h 60 4 == recCheck (cvuSel x 3) h (x.flashRead (block * flashBlock + 64) (rPlen h))

/-- Number of 8 × 8 blocks of the half (R268). -/
def Die.nb (x : Die) : Nat := (x.width + 7) / 8 * (x.height / 8)

/-- Bytes of a correction bank's image (R268, R356). -/
def Die.bankBytes (x : Die) : Nat := 1156 * x.nb

/-- Line groups of ledger part `p`, in order (R282). -/
def Die.partGroups (x : Die) (p : Nat) : List Nat := (List.range (x.height / 8)).filter fun g => g % 24 == p

/-- Lamps of a line group. -/
def Die.groupLamps (x : Die) : Nat := 24 * x.width

/-- Payload bytes of ledger part `p` (R356, R357). -/
def Die.partBytes (x : Die) (p : Nat) : Nat := 2 * x.groupLamps * (x.partGroups p).length

/-- Whether record `i` of the set in `block` keeps R357 beside record 0, whose header is `h0`; `total` is the set's payload. -/
def Die.recordFits (x : Die) (h0 : List Byte) (kind part total block i : Nat) : Bool :=
  let h := x.recHead (block + i)
  x.recordOk (block + i) && rKind h == kind && rPart h == part && rIndex h == i && rTotal h == total &&
    rW h == x.width && rH h == x.height &&
    bytesAt h 6 18 == bytesAt h0 6 18 && rCount h == rCount h0 &&
    rLast h == decide (i + 1 = rCount h) &&
    (if i + 1 = rCount h then decide (1 ≤ rPlen h) && i * plenMax + rPlen h == total else rPlen h == plenMax)

/-- The first failing index of a set of at most `limit` records; none where the set is valid, 0xFFFF where it has no record 0
(R357, R358). -/
def Die.setBad (x : Die) (kind part total block limit : Nat) : Option Nat :=
  if !x.isRecord block then some 0xFFFF
  else
    let h0 := x.recHead block
    if rCount h0 = 0 || limit < rCount h0 then some 0
    else (List.range (rCount h0)).find? fun i => !x.recordFits h0 kind part total block i

/-- Map copy `c`: its first failing index, none where it is valid. -/
def Die.mapBad (x : Die) (c : Nat) : Option Nat := x.setBad 1 0 x.bankBytes (mapBlock c) 1152

/-- Copy `c` of ledger part `p`: its first failing index, none where it is valid. -/
def Die.partBad (x : Die) (p c : Nat) : Option Nat := x.setBad 2 p (x.partBytes p) (partBlock p c) 17

/-- Whether generation `b` is newer than `a` (R357). -/
def newerGen (a b : Nat) : Bool :=
  let d := (b + 65536 - a % 65536) % 65536
  1 ≤ d && d ≤ 32767

/-- The copy to take of two, from whether each is usable and their generations: the newer, copy A where they are equal (R357). -/
def pickCopy (okA okB : Bool) (genA genB : Nat) : Option Nat :=
  match okA, okB with
  | true, true => some (if newerGen genA genB then 1 else 0)
  | true, false => some 0
  | false, true => some 1
  | false, false => none

/-- The map copy to take for the panel with `key` (R358). -/
def Die.pickMap (x : Die) (key : List Byte) : Option Nat :=
  let h (c : Nat) : List Byte := x.recHead (mapBlock c)
  let ok (c : Nat) : Bool := (x.mapBad c).isNone && rKey (h c) == key
  pickCopy (ok 0) (ok 1) (rGen (h 0)) (rGen (h 1))

/-- The copy to take of ledger part `p` for the panel with `key` (R359). -/
def Die.pickPart (x : Die) (p : Nat) (key : List Byte) : Option Nat :=
  let h (c : Nat) : List Byte := x.recHead (partBlock p c)
  let ok (c : Nat) : Bool := (x.partBad p c).isNone && rKey (h c) == key
  pickCopy (ok 0) (ok 1) (rGen (h 0)) (rGen (h 1))

/-- `n` payload bytes from offset `off` of the set in `block`, each from its own record (R356). -/
def Die.setBytes (x : Die) (block off n : Nat) : List Byte :=
  (List.range n).flatMap fun i =>
    let o := off + i
    x.flashRead ((block + o / plenMax) * flashBlock + 64 + o % plenMax) 1

/-- STORE_COPY_INVALID (R358). -/
def Die.copyInvalid (x : Die) (kind c part : Nat) (bad : Option Nat) : Die :=
  match bad with
  | some i => x.raise 0xD2 (kind + 16 * c + 256 * part + 65536 * i)
  | none => x

/-- CVU-S has checked the records of the set in `block`, `limit` at most (R228, R357) (DEDUCED, assumption 28). -/
def Die.countSet (x : Die) (block limit : Nat) : Die :=
  if x.isRecord block then
    let oks := (List.range (min limit (rCount (x.recHead block)))).map fun i => x.recordOk (block + i)
    (x.bump (F.cvuPass 3) (oks.filter (fun b => b)).length).bump (F.cvuFail 3) (oks.filter (!·)).length
  else x

/-- Validate map copy `c` (R357, R358): the CST registers follow. -/
def Die.validateMap (x : Die) (c : Nat) : Die :=
  let x := x.countSet (mapBlock c) 1152
  let bad := x.mapBad c
  let gen := if bad.isNone then rGen (x.recHead (mapBlock c)) else 0
  let x := if c = 0 then (x.flag F.aValid bad.isNone).put F.genA gen else (x.flag F.bValid bad.isNone).put F.genB gen
  x.copyInvalid 1 c 0 bad

/-- Keys of the record sets that the store holds (R285): those of the first records that pass CVU-S. -/
def Die.storeKeys (x : Die) : List (List Byte) :=
  let blocks := [mapBlock 0, mapBlock 1] ++ (List.range 24).flatMap fun p => [partBlock p 0, partBlock p 1]
  (blocks.filter fun b => x.recordOk b).map fun b => rKey (x.recHead b)

/-- Bit length of a number, by `fuel` halvings. -/
def bitLen : Nat → Nat → Nat
  | 0, _ => 0
  | n + 1, v => if v = 0 then 0 else 1 + bitLen n (v / 2)

/-- The log code of a counter (R283). -/
def logCode (c : Nat) : Nat :=
  if c < 1024 then c
  else
    let e := bitLen 48 c - 10
    e * 1024 + c / 2 ^ (e - 1) % 1024

/-- The counter that a log code decodes to (R283). -/
def logDecode (code : Nat) : Nat :=
  let e := code / 1024
  let f := code % 1024
  if e = 0 then code
  else if e = 1 then 1024 + f
  else (1024 + f) * 2 ^ (e - 1) + 2 ^ (e - 2)

/-- DRAM address of the counter of lamp ℓ (R280). -/
def ledgerAt (l : Nat) : Nat := 0x0E000000 + 6 * l

/-- Number ℓ of the lamp of colour `c` at (`px`, `y`) (R280). -/
def Die.lampNo (x : Die) (px y c : Nat) : Nat := 3 * (y * x.width + px) + c

/-- The checkpoint's value for lamp ℓ: from the copy that R359 takes, 0 without one. -/
def Die.checkpointOf (x : Die) (key : List Byte) (l : Nat) : Nat :=
  if x.width = 0 then 0
  else
    let g := l / x.groupLamps
    match x.pickPart (g % 24) key with
    | some c =>
      let k := g / 24 * x.groupLamps + l % x.groupLamps
      logDecode (natAt (x.setBytes (partBlock (g % 24) c) (2 * k) 2) 0 2)
    | none => 0

end Sys2Proof.Machine
end

