-- ==== Sys2Proof/Machine/Journal.lean ====
section
/-! DEFINITION. The store's journal (R361) and its engine: which operation runs, what starts the next one, and erase
suspension (R360, R361, R363, R364). `rtc` is the keeper's real-time counter. -/

namespace Sys2Proof.Machine

/-- Slots of the journal: 8 blocks of 4096 (R361). -/
def journalSlots : Nat := 32768

/-- A journal entry's 16 bytes (R361). -/
def journalEntry (code type block seq rtc : Nat) : List Byte :=
  let b := le 1 type ++ [0] ++ le 2 block ++ le 4 seq ++ le 4 rtc
  b ++ cvuField code 4 b

/-- Program an entry in the next slot. -/
def Die.journalPut (x : Die) (type block rtc : Nat) : Die :=
  let x := x.flashWrite (16 * x.cst.jslot) (journalEntry (cvuSel x 3) type block x.cst.jseq rtc)
  { x with cst := { x.cst with jseq := (x.cst.jseq + 1) % 2 ^ 32, jslot := (x.cst.jslot + 1) % journalSlots } }

/-- Erase a block, verified (R360, R361). -/
def Die.eraseBlock (x : Die) (block : Nat) : Die := (x.flashErase block).bump F.cstErases

/-- At the start of a journal block its ANCHOR is written, an unfinished refresh is carried forward, and the next journal block
is erased (R361). -/
def Die.journalTurn (x : Die) : Die :=
  if x.cst.jslot % 4096 = 0 then
    let n := x.cst.jslot / 4096
    let x := x.journalPut 5 0 (x.get F.refreshLast)
    let x := if x.cst.refresh.isSome then x.journalPut 3 0 (x.get F.refreshLast) else x
    x.eraseBlock ((n + 1) % 8)
  else x

/-- Write a journal entry (R361). -/
def Die.journal (x : Die) (type block rtc : Nat) : Die := x.journalTurn.journalPut type block (rtc % 2 ^ 32)

/-- An erase of a block outside the journal starts: ERASE_START is programmed first (R361). -/
def Die.startErase (x : Die) (block rtc : Nat) : Die := x.journal 1 block rtc

/-- The erase is complete and verified (R361). -/
def Die.endErase (x : Die) (block rtc : Nat) : Die := (x.eraseBlock block).journal 2 block rtc

/-- An urgent read suspends an erase under way (R363). (DEDUCED, assumption 28). -/
def Die.urgentRead (x : Die) : Die :=
  if x.cst.op.erasing && !x.cst.suspended then
    ({ x with cst := { x.cst with suspended := true } }.flag F.cstSuspended true).bump F.cstSuspends
  else x

/-- The blocks that a refresh rewrites: those of map copy A, then B, of a set with a record 0 (R364). -/
def Die.refreshBlocks (x : Die) : List Nat :=
  let of (c : Nat) : List Nat :=
    if x.isRecord (mapBlock c) then
      (List.range (min 1152 (rCount (x.recHead (mapBlock c))))).map fun i => mapBlock c + i
    else []
  of 0 ++ of 1

/-- The record in a block with its payload, if it passes CVU-S. -/
def Die.goodRecord (x : Die) (block : Nat) : Option (List Byte) :=
  if x.recordOk block then some (x.flashRead (block * flashBlock) (64 + rPlen (x.recHead block))) else none

/-- The block of the other map copy with the same place (R355). -/
def otherMap (block : Nat) : Nat := if block < 1160 then block + 1152 else block - 1152

/-- CVU-S has checked a unit (R228, R229): counted as passed or failed (DEDUCED, assumption 28). -/
def Die.countCheck (x : Die) (ok : Bool) : Die := x.bump (if ok then F.cvuPass 3 else F.cvuFail 3)

/-- What a refresh writes back to a block: its record, or the other copy's with the same INDEX and GEN (R364). -/
def Die.refreshRecord (x : Die) (block : Nat) : Option (List Byte) :=
  match x.goodRecord block with
  | some r => some r
  | none =>
    let h := x.recHead block
    let o := x.recHead (otherMap block)
    if rIndex o == rIndex h && rGen o == rGen h then x.goodRecord (otherMap block) else none

/-- The refresh writes back block `b` (R364): erased first, unless it is erased already. -/
def Die.refreshBlock (x : Die) (rtc b : Nat) (r : List Byte) (clear : Bool) : Die :=
  let x : Die := { x with cst := { x.cst with op := .refresh b r clear, refresh := some (b + 1, false) } }
  if clear then x else x.startErase b rtc

/-- The refresh goes on with the first of these blocks that it does not leave as it was, or ends (R364). -/
def Die.refreshOn (x : Die) (rtc : Nat) : List Nat → Die
  | [] =>
    let x := { x with cst := { x.cst with op := .idle } }.journal 4 0 rtc
    let x := { x with cst := { x.cst with refresh := none } }.put F.refreshLast (rtc % 2 ^ 32)
    (x.flag F.refreshRun false).raise 0xD5
  | b :: t =>
    let y := x.countCheck (x.recordOk b)
    match x.refreshRecord b with
    | none => Die.refreshOn y rtc t
    | some r => y.refreshBlock rtc b r false

/-- The refresh goes on at block `b`. A block cut off by a reset is written from the other copy's record in the same place, where
that passes CVU-S (R364). -/
def Die.refreshFrom (x : Die) (rtc b : Nat) (cut : Bool) : Die :=
  let rest (n : Nat) : Die := x.refreshOn rtc (x.refreshBlocks.filter fun k => n ≤ k)
  if cut then
    match x.goodRecord (otherMap b) with
    | some r => x.refreshBlock rtc b r ((x.flashRead (b * flashBlock) flashBlock).all (· == 0xFF))
    | none => rest (b + 1)
  else rest b

/-- Whether the die may run store work of its own (R334, R364). -/
def Die.storeMay (x : Die) : Bool := (x.power == .active || x.power == .relay) && x.on F.cstReady

/-- The STORE command under way finishes (R187). -/
def Die.storeDone (x : Die) (status detail : Nat) : Die :=
  match x.hif.store with
  | some j => { x with hif := { x.hif with store := none } }.completeJob j status detail
  | none => x

/-- A host program finds its target erased, or completes with FAILED (R360). -/
def Die.startProgram (x : Die) (base : Nat) (data : List Byte) (short : Bool) : Die :=
  if (x.flashRead base data.length).all (· == 0xFF) then { x with cst := { x.cst with op := .program base data short } }
  else x.storeDone 0x07 0

/-- Start an operation of the engine. -/
def Die.startOp (x : Die) (rtc : Nat) (op : StoreOp) : Die :=
  match op with
  | .idle => x
  | .program base data short => x.startProgram base data short
  | .erase b _ => { x with cst := { x.cst with op := op } }.startErase b rtc
  | .part p c i _ _ => { x with cst := { x.cst with op := op } }.startErase (partBlock p c + i) rtc
  | .refresh b _ _ => { x with cst := { x.cst with op := op } }.startErase b rtc

/-- CST_STATUS.BUSY follows the engine. -/
def Die.storeBusy (x : Die) : Die := x.flag F.cstBusy (x.cst.op != .idle)

/-- Whether a lamp's counter touches ledger word `w`. -/
def touchesWord (l w : Nat) : Bool := ledgerAt l < w + 32 && w < ledgerAt l + 6

/-- A poisoned ledger word is rewritten whole from the checkpoint (R288). -/
def Die.restoreWord (x : Die) (w : Nat) : Die :=
  let x := x.urgentRead
  let key := x.wear.key.getD []
  let first := (w - ledgerAt 0) / 6
  let ls := ((List.range 7).map fun i => first + i).filter fun l => touchesWord l w && l < 3 * x.width * x.height
  let x := ls.foldl (fun x l => x.writeAs 3 true (ledgerAt l) (le 6 (x.checkpointOf key l))) x
  let x := x.writeAs 3 true w (x.peek true w 32)
  x.raise 0x95 w

/-- A group's counters as log codes, in the order of R280 (R282, R356), as M3 reads them: poisoned words are restored first (R225,
R288). -/
def Die.groupCodes (x : Die) (g : Nat) : List Byte × Die :=
  let r := (ledgerAt (g * x.groupLamps), 6 * x.groupLamps)
  let ue := wordsIn x.mem.dramUe r
  let (bs, x) := (ue.foldl Die.restoreWord (x.noteUe 3 ue)).readAs 3 true r.1 r.2
  ((List.range x.groupLamps).flatMap fun k => le 2 (logCode (natAt bs (6 * k) 6)), x)

/-- The payload of ledger part `p` (R356). -/
def Die.partPay (x : Die) (p : Nat) : List Byte × Die :=
  (x.partGroups p).foldl (fun (acc, x) g => let (bs, x) := x.groupCodes g; (acc ++ bs, x)) ([], x)

/-- The records of a set with payload `pay`, without their check values (R356). -/
def recordsOf (kind gen : Nat) (key : List Byte) (part w h rtc : Nat) (pay : List Byte) : List (List Byte) :=
  let count := (pay.length + plenMax - 1) / plenMax
  (List.range count).map fun i =>
    let p := bytesAt pay (i * plenMax) plenMax
    [0x43, 0x53, 0x54, 0x52] ++ le 1 kind ++ le 1 (if i + 1 = count then 1 else 0) ++ le 2 gen ++ key ++ le 2 i ++
      le 2 count ++ le 4 p.length ++ le 4 pay.length ++ le 6 rtc ++ le 2 part ++ le 2 w ++ le 2 h ++ List.replicate 12 0 ++ p

/-- A record with its check value: CVU-S takes the algorithm when the record is begun (R231, R356). -/
def sealRecord (code : Nat) (r : List Byte) : List Byte := r.take 60 ++ recCheck code r (r.drop 60) ++ r.drop 60

/-- The checkpoint of ledger part `p` starts: into the copy that does not hold the part's newest valid set, with the next
generation (R282, R359). A part without lamps has nothing to write. -/
def Die.startPart (x : Die) (rtc p : Nat) : Die :=
  let key := x.wear.key.getD []
  let held := x.pickPart p key
  let copy := match held with | some c => 1 - c | none => 0
  let gen := match held with | some c => (rGen (x.recHead (partBlock p c)) + 1) % 65536 | none => 0
  let (pay, x) := x.partPay p
  match recordsOf 2 gen key p x.width x.height rtc pay with
  | [] => x
  | rs => x.startOp rtc (.part p copy 0 rs false)

/-- The checkpoint that waits for the engine, if it may be written (R282, R285). -/
def Die.waitingPart (x : Die) : Option Nat := if x.on F.wearEn && x.wear.ledgerOk then x.cst.wait else none

/-- The engine is free: it takes the host operation that waits, then the checkpoint that waits, then the refresh (R364,
collisions of chapter 22). In DRYDOWN it starts nothing (R334). -/
def Die.storeNext (x : Die) (rtc : Nat) : Die :=
  let x := { x with cst := { x.cst with op := .idle } }
  let x := match x.power, x.cst.queued with
    | .drydown, _ => x
    | _, some op => { x with cst := { x.cst with queued := none } }.startOp rtc op
    | _, none => x
  let x :=
    if x.cst.op != .idle || !x.storeMay then x
    else match x.waitingPart with
      | some p => { x with cst := { x.cst with wait := none } }.startPart rtc p
      | none =>
        match x.cst.refresh with
        | some (b, cut) => x.refreshFrom rtc b cut
        | none => x
  x.storeBusy

/-- Ask for an operation: it starts now where the engine is free, else it waits. -/
def Die.storeAsk (x : Die) (rtc : Nat) (op : StoreOp) : Die :=
  if x.cst.op = .idle then (x.startOp rtc op).storeBusy
  else { x with cst := { x.cst with queued := some op } }

/-- Flash bytes take values that the spec leaves open (DESIGN CHOICE, assumption 32). -/
def Die.openBytes (x : Die) (a n : Nat) : Die :=
  if n = 0 then x
  else { x with free := x.free + n }.flashWrite a ((List.range n).map fun i => Config.freeByte (x.free + i))

/-- An operation is cut off by the loss of power or by a reset: what its bytes hold is open (assumption 32). -/
def Die.cutStore (x : Die) : Die := x.openBytes x.cst.op.target.1 x.cst.op.target.2

/-- Work of the die's own that had to wait for ACTIVE or SILLAGE-RELAY goes on (R364). -/
def Die.storeKick (x : Die) (rtc : Nat) : Die :=
  if x.cst.op == .idle && x.storeMay && (x.waitingPart.isSome || x.cst.refresh.isSome) then x.storeNext rtc else x

end Sys2Proof.Machine
end

