-- ==== Sys2Proof/Machine/Lanes.lean ====
section
/-! DEFINITION. The lanes of the Quodo port (chapter 05): training, taps, lane-local blocks, service, margin. -/

namespace Sys2Proof.Machine

/-- The scrambler of clause 49 over `n` payload bits, bit 0 first: the output, and the last 58 bits sent (R106). -/
def scramble : Nat → Nat → BitVec 58 → Nat × BitVec 58
  | 0, _, s => (0, s)
  | n + 1, v, s =>
    let b := (v % 2 + b2n (s.getLsbD 38) + b2n (s.getLsbD 57)) % 2
    let (r, s) := scramble n (v / 2) ((s <<< 1) ||| BitVec.ofNat 58 b)
    (b + 2 * r, s)

/-- The descrambler: the output, and the last 58 bits received (R106). -/
def descramble : Nat → Nat → BitVec 58 → Nat × BitVec 58
  | 0, _, s => (0, s)
  | n + 1, v, s =>
    let b := (v % 2 + b2n (s.getLsbD 38) + b2n (s.getLsbD 57)) % 2
    let (r, s) := descramble n (v / 2) ((s <<< 1) ||| BitVec.ofNat 58 (v % 2))
    (b + 2 * r, s)

/-- Sync header and payload of a block. -/
def syncHdr (b : BitVec 66) : Nat := b.toNat / 2 ^ 64
def pay64 (b : BitVec 66) : Nat := b.toNat % 2 ^ 64

/-- A data block and a control block. -/
def dataBlock (v : Nat) : BitVec 66 := BitVec.ofNat 66 (2 ^ 64 + v % 2 ^ 64)
def ctrlBlock (v : Nat) : BitVec 66 := BitVec.ofNat 66 (2 * 2 ^ 64 + v % 2 ^ 64)

/-- Lane `k`. -/
def Die.lane (x : Die) (k : Lane) : LaneState := x.qphy.lanes[k]

/-- Replace lane `k`. -/
def Die.setLane (x : Die) (k : Lane) (l : LaneState) : Die :=
  { x with qphy := { x.qphy with lanes := x.qphy.lanes.set k l } }

/-- The lanes in order. -/
def lanesAll : List Lane := [0, 1, 2, 3]

/-- State code of lane `k` (R96). -/
def Die.laneSt (x : Die) (k : Lane) : Nat := x.get (F.laneState k.val)

/-- Move lane `k` to a state. -/
def Die.laneTo (x : Die) (k : Lane) (n : Nat) : Die := x.put (F.laneState k.val) n

/-- Whether in-lane `k` is in traffic (R98). -/
def Die.inTraffic (x : Die) (k : Lane) : Bool := bitAt (x.get F.traffic) k.val

/-- Set or clear a lane's bit of ACC_PCL_STATUS.TRAFFIC. -/
def Die.setTraffic (x : Die) (k : Lane) (b : Bool) : Die :=
  x.put F.traffic (if b then x.get F.traffic ||| 2 ^ k.val else x.get F.traffic &&& (15 - 2 ^ k.val))

/-- Detail word L (R375): lane and timed-out state, and eye height and width for the margin events. -/
def laneDetail (k : Lane) (state : Nat := 0) (height width : Nat := 0) : Nat :=
  k.val + 16 * state + 256 * height + 65536 * width

/-- The clamp of a tap request (R92). -/
def clampTaps (pre post : Nat) : Nat × Nat :=
  let pre := min pre 15
  (pre, min (min post 31) (36 - pre))

/-- Apply taps to out-lane `k`, clamped; LANE_TAPS shows the values applied (R92). -/
def Die.applyTaps (x : Die) (k : Lane) (pre post : Nat) : Die :=
  let t := clampTaps pre post
  (x.put (F.tapPre k.val) t.1).put (F.tapPost k.val) t.2

/-- QPHY_TX_INIT applies to the out-lanes that the partner has asked nothing of. -/
def Die.applyTxInit (x : Die) : Die :=
  lanesAll.foldl (fun x k => if (x.lane k).tapReq then x else x.applyTaps k (x.get F.txPre) (x.get F.txPost)) x

/-- DEGRADED and DOUBLE follow the lanes; a period of double loss raises its event where the port has carried traffic
(R112). -/
def Die.updDouble (x : Die) : Die :=
  let out := (lanesAll.filter fun k => !x.inTraffic k).length
  let miss := (lanesAll.filter fun k => !x.inTraffic k || (x.lane k).slipped).length
  let en := x.on F.qEnable
  let dbl := en && (2 ≤ out || x.pcl.badStripe)
  let new := dbl && !x.on F.double && x.pcl.carried
  let x := (x.flag F.degraded (en && miss == 1)).flag F.double dbl
  if new then x.raise 0x31 0 else x

/-- Whether the echo of in-lane `k` shows the taps asked for, as the partner clamps and applies them (R92, R97) (DEDUCED,
assumption 53). -/
def Die.echoes (x : Die) (k : Lane) : Bool :=
  match (x.lane k).req with
  | some (pre, post) => (x.get (F.tapRpre k.val), x.get (F.tapRpost k.val)) == clampTaps pre post
  | none => true

/-- The lane whose tap request a block carries when several stand: the first that the partner has not echoed yet, else the first
(DESIGN CHOICE, assumption 52). -/
def Die.reqLane (x : Die) : Lane :=
  match lanesAll.find? fun j => (x.lane j).req.isSome && !x.echoes j with
  | some j => j
  | none => (lanesAll.find? fun j => (x.lane j).req.isSome).getD 0

/-- The training block that out-lane `k` sends (R93). It carries the tap request of in-lane `k` where that has one (R97). -/
def Die.tsBlock (x : Die) (k : Lane) : BitVec 64 :=
  let ready := lanesAll.foldl (fun n j => n + (if (x.lane j).verified then 2 ^ j.val else 0)) 0
  let tgt := if (x.lane k).req.isSome then k else x.reqLane
  let req := (x.lane tgt).req
  laneBlock (0xD2 + 2 ^ 8 * k.val + 2 ^ 10 * x.laneSt k + 2 ^ 14 * ready + 2 ^ 18 * x.get F.qRate +
    (match req with
      | some (pre, post) => 2 ^ 20 + 2 ^ 21 * tgt.val + 2 ^ 23 * pre + 2 ^ 27 * post
      | none => 0) +
    2 ^ 32 * x.get (F.tapPre k.val) + 2 ^ 36 * x.get (F.tapPost k.val) + 2 ^ 48 * (x.lane k).tsSeq.toNat)

/-- SEQ after the next TS that the lane may send: it sends one only while its out-lane carries TS blocks (R93, R96). -/
def LaneState.nextSeq (l : LaneState) : Byte := if l.outTs then l.tsSeq + 1 else l.tsSeq

/-- A block of out-lane `k` as it is sent, and the scrambler after it (R106). -/
def LaneState.scrambled (l : LaneState) (b : BitVec 66) : BitVec 66 × LaneState :=
  let (v, s) := scramble 64 (pay64 b) l.txScr
  (BitVec.ofNat 66 (syncHdr b * 2 ^ 64 + v), { l with txScr := s })

/-- Send one TS on out-lane `k`, unless that out-lane carries traffic (R93, R96) or the transmitters are off (R76). -/
def Die.sendTs (x : Die) (k : Lane) : Die :=
  if (x.lane k).outTs && !x.clk.txOff then
    let (b, l) := (x.lane k).scrambled (ctrlBlock (x.tsBlock k).toNat)
    (x.setLane k { l with tsSeq := (x.lane k).nextSeq }).emit (.ts k.val (x.tsBlock k) b)
  else x

/-- The descrambler of input `phys` has taken a lane-local block with payload `v` (R91, R106), which came in no stripe: with lanes in
traffic, the stripe brings the block. -/
def Die.tookBlock (x : Die) (phys : Lane) (inv : Bool) (v : BitVec 64) : Die :=
  if x.get F.traffic = 0 then
    let l := x.lane phys
    x.setLane phys { l with rxScr := (scramble 64 (if inv then ~~~v else v).toNat l.rxScr).2 }
  else x

/-- A lane starts a training attempt at state `n`. -/
def Die.trainFrom (x : Die) (k : Lane) (n : Nat) : Die :=
  (x.setLane k { x.lane k with verified := false, readyRun := 0, search := none, req := none }).laneTo k n

/-- Add the errors and bits that the PRBS checker has counted in sync (R103). -/
def Die.prbsAdd (x : Die) (k : Lane) (errors n : Nat) : Die :=
  let b := min (x.get (F.prbsBitsLo k.val) + 2 ^ 32 * x.get (F.prbsBitsHi k.val) + n) (2 ^ 48 - 1)
  ((x.bump (F.prbsErr k.val) errors).put (F.prbsBitsLo k.val) b).put (F.prbsBitsHi k.val) (b / 2 ^ 32)

/-- The lane service under way ends before its time (R102 and the collisions of chapter 05): SUPERSEDED, and the lane goes
to VERIFY (DEDUCED, assumption 13). What the checker has counted in sync since its last report is added; the step that cuts the
service off does not bring it, so it is free (R103; DESIGN CHOICE, assumption 18). -/
def Die.endService (x : Die) (k : Lane) : Die :=
  let x := if x.on (F.prbsSync k.val) then
      { x with free := x.free + 2 }.prbsAdd k (Config.freeNat x.free) (Config.freeNat (x.free + 1))
    else x
  let x := (x.setLane k { x.lane k with serviceReq := none, port := false, verified := false, tuned := false }).laneTo k 5
  let x := x.flag (F.prbsSync k.val) false
  match x.hif.service with
  | some j => { x with hif := { x.hif with service := none } }.completeJob j 0x01
  | none => x

/-- The lane service under way, if any, is cut off. -/
def Die.endServices (x : Die) : Die := lanesAll.foldl (fun x j => if x.laneSt j = 7 then x.endService j else x) x

/-- The link exchanges are discarded, and the average with them (R135, R142). -/
def Die.dropExchanges (x : Die) : Die := { x with acd := { x.acd with exchanges := [] } }.put F.linkDly 0

/-- Port training: all lanes go to DETECT together (R96, R100). A service under way ends; RETRAIN_REQ and the report of a retrain
stand until the lane is back (R99). What an out-lane carries while its in-lane is in DETECT or FAILED stays as it was (DESIGN
CHOICE, assumption 52). -/
def Die.trainPort (x : Die) : Die :=
  let x := lanesAll.foldl (fun x k =>
    (((x.setLane k { x.lane k with
        port := true, serviceReq := none, noTune := false, slipped := false, outPrbs := none
        outJoin := false }).trainFrom k 1).setTraffic k false).flag (F.prbsSync k.val) false) x.endServices
  ({ x with qphy := { x.qphy with orderRaised := false } }.dropExchanges).updDouble

/-- A single-lane retrain begins (R99, R101, R329). -/
def Die.retrain (x : Die) (k : Lane) (noTune : Bool) : Die :=
  let x : Die := { x with qphy := { x.qphy with orderRaised := false } }
  (x.setLane k { x.lane k with
    retrainReq := true, port := false, retrained := true, noTune := noTune
    outTs := noTune || (x.lane k).outTs }).trainFrom k 2

/-- A failed attempt (R100): counted; the third in a row takes the lane to FAILED, and a lane that retries from FAILED
returns there; otherwise the lane goes to `next`. -/
def Die.attemptFailed (x : Die) (k : Lane) (next : Nat) : Die :=
  let l := x.lane k
  let x := x.bump (F.trainFails k.val)
  let run := l.failRun + 1
  let x := x.setLane k { l with failRun := run }
  if l.retrying then (x.trainFrom k 8)
  else if 3 ≤ run then ((x.trainFrom k 8).setLane k { (x.trainFrom k 8).lane k with retrying := true }).raise 0x24 (laneDetail k)
  else x.trainFrom k next

/-- A lane becomes ACTIVE (R98). In port training its out-lane ends its TS blocks at the next alignment point, which is the next
CC slot sent; in a single-lane retrain those that the partner has asked for go on until it reports RX_LOCK (R95). -/
def Die.laneActive (x : Die) (k : Lane) : Die :=
  let l := x.lane k
  let x := x.setLane k { l with
    failRun := 0, retrying := false, verifyFailed := false, req := none, retrainReq := false
    outJoin := l.outTs && (l.port || l.outJoin) }
  x.laneTo k 6

/-- Whether the port is ACTIVE: an in-lane of it is. -/
def Die.portActive (x : Die) : Bool := lanesAll.any fun k => x.laneSt k == 6

/-- JOIN leaves IDLE once the own port is ACTIVE or the stitch carries time (R141). -/
def Die.joinStart (x : Die) : Die :=
  if x.get F.join = 0 && (x.portActive || x.get F.stiState = 2) then x.put F.join 1 else x

/-- Join afresh (R141): nothing of the old time base's estimate is kept. -/
def Die.rejoin (x : Die) : Die :=
  ({ x with acd := { x.acd with
      synced := false, rates := [], steady := 0, inLimit := 0, stepped := false } }.dropExchanges.put F.join 0
    |>.flag F.rateOk false).joinStart

/-- A tap request in a TS or LS: clamped, applied to the named out-lane and echoed from then on (R92, R95). The fields
stand from bit `lo` on. -/
def Die.tapRequest (x : Die) (b : BitVec 64) (lo : Nat) : Die :=
  if blk b lo 1 = 1 then
    let k : Lane := Fin.ofNat 4 (blk b (lo + 1) 2)
    let x := x.applyTaps k (blk b (lo + 3) 4) (blk b (lo + 7) 5)
    x.setLane k { x.lane k with tapReq := true }
  else x

/-- QPHY_CFG is written (R88, R96, R387). RATE keeps its value while ENABLE is 1; a write that would change it raises
QPHY_CFG_REFUSED. Setting ENABLE takes the lanes from DISABLED to DETECT with the taps of QPHY_TX_INIT; clearing it returns
every lane to DISABLED. -/
def Die.writeQphyCfg (x : Die) (v : Word) (mask : Word := 0xFFFFFFFF) : Die :=
  let was := x.on F.qEnable
  let rate := x.get F.qRate
  let old := x.reg 0x1000
  let x := x.store 0x1000 v mask
  let refused := was && x.get F.qRate != rate
  let x := if refused then (x.put F.qRate rate).raise 0x2E (refusedDetail 0x1000 ((old &&& ~~~mask) ||| (v &&& mask))) else x
  if x.on F.qEnable && !was then
    let x := lanesAll.foldl (fun x k => x.setLane k { x.lane k with tapReq := false, failRun := 0, retrying := false, outPrbs := none, outTs := false, outJoin := false }) x
    let x := { x with pcl := { x.pcl with carried := false, badStripe := false } }
    x.applyTxInit.trainPort
  else if !x.on F.qEnable && was then
    let x := x.endServices
    let x := lanesAll.foldl (fun x k =>
      ((x.setLane k { LaneState.reset with
          tsSeq := (x.lane k).tsSeq, rxScr := (x.lane k).rxScr, txScr := (x.lane k).txScr }).laneTo k 0).setTraffic k false) x
    x.dropExchanges.updDouble
  else x

/-- A write of QPHY_CFG where BAR0 serves it. -/
def Die.qphyCfgRow (x : Die) (v : Word) : Die := if x.barOpen then x.writeQphyCfg v else x

/-- QPHY_ENABLE (R96): the write `v` with ENABLE at 1. -/
def execQphyEnable (d : DieId) (v : Word) (s : State) : Result :=
  onDie s d fun _ x => x.qphyCfgRow (v ||| 0x10)

/-- QPHY_DISABLE (R96): the write `v` with ENABLE at 0 (DEDUCED, assumption 13). -/
def execQphyDisable (d : DieId) (v : Word) (s : State) : Result :=
  onDie s d fun _ x => x.qphyCfgRow (v &&& ~~~0x10)

/-- QPHY_RATE_WRITE (R88). -/
def execQphyRateWrite (d : DieId) (v : Word) (s : State) : Result :=
  onDie s d fun _ x => x.qphyCfgRow v

/-- LANE_DETECT (R96): DETECT to CDR_ACQ. In port training the out-lane sends TS blocks from here on. -/
def execLaneDetect (d : DieId) (k : Lane) (s : State) : Result :=
  onDie s d fun _ x =>
    if x.laneSt k = 1 then
      let y := x.trainFrom k 2
      (y.setLane k { y.lane k with outTs := (y.lane k).port || (y.lane k).outTs }).sendTs k
    else x

/-- CDR_LOCK (R96): CDR_ACQ to BLOCK_LOCK. -/
def execCdrLock (d : DieId) (k : Lane) (s : State) : Result :=
  onDie s d fun _ x => if x.laneSt k = 2 then (x.laneTo k 3).sendTs k else x

/-- Values of POST in the first part of the search of R97. -/
def searchPosts : List Nat := [0, 4, 8, 12, 16, 20, 24, 28, 31]

/-- Values of PRE in the second part. -/
def searchPres : List Nat := [0, 2, 4, 6, 8, 10, 12, 14]

/-- The best setting so far as (PRE, POST); (0, 0) before the first point. -/
def TapSearch.bestTaps (t : TapSearch) : Nat × Nat :=
  match t.best with
  | some (_, _, pre, post) => (pre, post)
  | none => (0, 0)

/-- The points of one part of the search, in order, given the best setting before it (R97). -/
def searchPoints (stage : Nat) (best : Nat × Nat) : List (Nat × Nat) :=
  match stage with
  | 0 => searchPosts.map fun p => (0, p)
  | 1 => searchPres.map fun p => (p, best.2)
  | _ =>
    (if 2 ≤ best.2 then [(best.1, best.2 - 2)] else []) ++ (if 1 ≤ best.2 then [(best.1, best.2 - 1)] else []) ++
      (if best.2 + 1 ≤ 31 then [(best.1, best.2 + 1)] else []) ++ (if best.2 + 2 ≤ 31 then [(best.1, best.2 + 2)] else [])

/-- The order of R97 between two measured settings: larger height, then larger width, then lower PRE + POST. -/
def betterTaps (a b : Nat × Nat × Nat × Nat) : Bool :=
  if a.1 != b.1 then b.1 < a.1
  else if a.2.1 != b.2.1 then b.2.1 < a.2.1
  else a.2.2.1 + a.2.2.2 < b.2.2.1 + b.2.2.2

/-- The search of a lane: the best point, and the points still to measure in this part; `stage` counts the parts. The points
of a part are fixed by the best setting at its start, which `base` keeps. -/
def tapStart : TapSearch := { stage := 0, next := 0, best := none, base := (0, 0) }

/-- The point that the search asks for; none when it is complete. -/
def TapSearch.point (t : TapSearch) : Option (Nat × Nat) := (searchPoints t.stage t.base)[t.next]?

/-- One measured point is taken and the next chosen; none when the search is complete (R97). -/
def TapSearch.step (t : TapSearch) (height width : Nat) : TapSearch :=
  let p := t.point.getD (0, 0)
  let m := (height, width, p.1, p.2)
  let best := match t.best with
    | none => m
    | some b => if betterTaps m b then m else b
  let t := { t with best := some best, next := t.next + 1 }
  if t.point.isSome then t
  else if t.stage < 2 then { t with stage := t.stage + 1, next := 0, base := t.bestTaps }
  else t

/-- Whether TAP_TUNE runs in this attempt (R97, R101, QPHY_CFG.TAP_MODE). -/
def Die.tunes (x : Die) (k : Lane) : Bool :=
  let l := x.lane k
  !x.on F.tapMode && !l.noTune && (l.port || x.on F.retune || l.verifyFailed)

/-- A TS that reports another rate fails the attempt (R100) (DEDUCED, assumption 13). -/
def Die.rateMismatch (x : Die) (k : Lane) (rate : Nat) : Die :=
  let x := if (x.lane k).retrying then x else x.raise 0x2D (laneDetail k + 256 * rate)
  x.attemptFailed k 1

/-- BLOCK_LOCK (R96, R97): 64 valid sync headers and a good TS. -/
def execBlockLock (d : DieId) (k : Lane) (ts : BitVec 64) (s : State) : Result :=
  onDie s d fun _ x =>
    if x.laneSt k = 3 && isTs ts then
      let x := x.tookBlock (Fin.ofNat 4 (x.get (F.lanePhys k.val))) (x.on (F.laneInv k.val)) ts
      if blk ts 18 2 != x.get F.qRate then x.rateMismatch k (blk ts 18 2)
      else if x.tunes k then
        let t := tapStart
        ((x.setLane k { x.lane k with search := some t, req := t.point, tuned := true }).laneTo k 4).sendTs k
      else ((x.setLane k { x.lane k with tuned := false }).laneTo k 5).sendTs k
    else x

/-- The handshake of port training is complete: VERIFY passed here and the partner's bit seen in 8 good TS in a row (R98). -/
def Die.handshake (x : Die) (k : Lane) : Die :=
  let l := x.lane k
  if x.laneSt k = 5 && l.verified && l.port && 8 ≤ l.readyRun then (x.laneActive k).joinStart else x

/-- The correction of lane order and polarity found in training (R91). LANE_ORDER is raised at the first TS that shows a difference,
with the other lanes as they then stand (DESIGN CHOICE, assumption 52). -/
def Die.laneMap (x : Die) (k phys : Lane) (inv : Bool) : Die :=
  let x := (x.put (F.lanePhys k.val) phys.val).flag (F.laneInv k.val) inv
  if (phys != k || inv) && !x.qphy.orderRaised then
    let ph := lanesAll.foldl (fun n j => n + 4 ^ j.val * x.get (F.lanePhys j.val)) 0
    let iv := lanesAll.foldl (fun n j => n + 2 ^ (8 + j.val) * x.get (F.laneInv j.val)) 0
    { x with qphy := { x.qphy with orderRaised := true } }.raise 0x26 (ph + iv)
  else x

/-- TS_RECEIVE (R91–R93, R95, R98, R100). -/
def execTsReceive (d : DieId) (phys : Lane) (inv : Bool) (ts : BitVec 64) (s : State) : Result :=
  onDie s d fun _ x =>
    if !isTs ts || !x.on F.qEnable then x
    else
      let x := x.tookBlock phys inv ts
      let k : Lane := Fin.ofNat 4 (blk ts 8 2)
      let training := 2 ≤ x.laneSt k && x.laneSt k ≤ 5
      let x := if training then x.laneMap k phys inv else x
      let x := x.tapRequest ts 20
      let x := (x.put (F.tapRpre k.val) (blk ts 32 4)).put (F.tapRpost k.val) (blk ts 36 5)
      if training && blk ts 18 2 != x.get F.qRate then x.rateMismatch k (blk ts 18 2)
      else
        let l := x.lane k
        let x := x.setLane k { l with readyRun := if bitAt (blk ts 14 4) k.val then min 8 (l.readyRun + 1) else 0 }
        x.handshake k

/-- TAP_TUNE ends: the lane goes to VERIFY with the best taps asked for (R97). -/
def Die.tuneDone (x : Die) (k : Lane) : Die :=
  let l := x.lane k
  let best := l.search.map (·.bestTaps)
  ((x.setLane k { l with search := none, req := best }).laneTo k 5).sendTs k

/-- TAP_TUNE_POINT_DONE (R97): the point is measured once its echo has come. -/
def execTapTunePointDone (d : DieId) (k : Lane) (height width : Byte) (s : State) : Result :=
  onDie s d fun _ x =>
    match x.laneSt k, (x.lane k).search with
    | 4, some t =>
      if !x.echoes k then x else
      let t := t.step height.toNat width.toNat
      let x := x.setLane k { x.lane k with search := some t, req := t.point }
      if t.point.isSome then x.sendTs k else x.tuneDone k
    | _, _ => x

/-- LANE_TAP_ECHO_MISMATCH (R97): the echo has not come to match the request; the search ends, and the lane verifies the taps that
are echoed. -/
def execLaneTapEchoMismatch (d : DieId) (k : Lane) (s : State) : Result :=
  onDie s d fun _ x =>
    if x.laneSt k = 4 && !x.echoes k then
      let x := if (x.lane k).retrying then x else x.raise 0x27 (laneDetail k)
      (x.setLane k { x.lane k with search := none, req := none }).laneTo k 5
    else x

/-- VERIFY_PASS (R96, R98, R105): the eye is at or above the QPHY_MARGIN minima. After a TAP_TUNE it becomes the reference.
In port training the lane is ACTIVE once the handshake is complete; in a single-lane retrain it then shows RX_LOCK. -/
def execVerifyPass (d : DieId) (k : Lane) (height width : Byte) (s : State) : Result :=
  onDie s d fun _ x =>
    if x.laneSt k = 5 && x.get F.minH ≤ height.toNat && x.get F.minW ≤ width.toNat then
      let l := x.lane k
      let x := x.setLane k { l with verified := true, verifyFailed := false }
      let x := if l.tuned then (x.put (F.eyeVH k.val) height.toNat).put (F.eyeVW k.val) width.toNat else x
      x.handshake k
    else x

/-- LANE_TRAIN_TIMEOUT (R96, R100). -/
def execLaneTrainTimeout (d : DieId) (k : Lane) (s : State) : Result :=
  onDie s d fun _ x =>
    let st := x.laneSt k
    let note (x : Die) : Die := if (x.lane k).retrying then x else x.raise 0x23 (laneDetail k st)
    match st with
    | 2 => (note x).attemptFailed k 1
    | 3 => (note x).attemptFailed k 2
    | 4 => (note x).tuneDone k
    | 5 =>
      let x := note x
      (x.setLane k { x.lane k with verifyFailed := true }).attemptFailed k 1
    | _ => x

/-- LANE_FAILED_RETRY (R100). -/
def execLaneFailedRetry (d : DieId) (k : Lane) (s : State) : Result :=
  onDie s d fun _ x =>
    if x.laneSt k = 8 then (x.setLane k { x.lane k with retrying := true }).trainFrom k 1 else x

/-- LANE_LOCK_LOST (R99, R100, R135). With no lane ACTIVE left, the port is down and trains again. -/
def execLaneLockLost (d : DieId) (k : Lane) (s : State) : Result :=
  onDie s d fun _ x =>
    if x.laneSt k = 6 then
      let x := (x.raise 0x21 (laneDetail k)).bump (F.lockLosses k.val)
      let x := (x.endServices.retrain k false).setTraffic k false
      let x := x.dropExchanges.updDouble
      if x.portActive then x else (x.raise 0x2F).trainPort
    else x

/-- A die in SILLAGE-DEEP wakes to SILLAGE-RELAY (R329): it asks its partner for lanes 1–3, reports the wake over the stitch,
retrains the lanes, clears scratch (R216), takes the DRAM out of self-refresh, joins again and raises SILLAGE_WOKE with the
cause `who`. -/
def Die.wake (x : Die) (who : Nat) : Die :=
  if x.power = .deep then
    let x := { x with power := .relay, sti := { x.sti with woke := true } }
    let x := [(1 : Lane), 2, 3].foldl (fun x k =>
      if x.laneSt k = 9 then x.retrain k true else x) x
    let x := { x with mem := { x.mem with scratch := [], scratchUe := [] }, acd := { x.acd with leaving := false } }
    ((x.flag F.selfRefresh false).rejoin).raise 0x0C who
  else x

/-- Lanes asleep for the partner's sake wake on RETRAIN_REQ[3:1] (R328, R329). -/
def Die.wakeLanes (x : Die) (req : Nat) : Die :=
  [(1 : Lane), 2, 3].foldl (fun x k =>
    if bitAt req k.val && x.laneSt k == 9 then x.retrain k true else x) x

/-- What an LS of the partner asks of an out-lane (R94, R95, R98, R102): TS blocks on RETRAIN_REQ, and when SERVICE_REQ has ended;
the pattern while SERVICE_REQ stands; a return to traffic at the next alignment point on RX_LOCK. -/
def LaneState.asked (l : LaneState) (lock req : Bool) (svc : Option (Nat × Bool)) : LaneState :=
  let pat := if req then none else svc
  let ts := req || l.outTs || (pat.isNone && l.outPrbs.isSome)
  { l with
    outTs := ts, outPrbs := pat, outJoin := !req && pat.isNone && ts && (lock || l.outJoin)
    prbs := if pat.isSome && l.outPrbs.isNone then 0x7FFFFFFF else l.prbs }

/-- LS_RECEIVE (R94, R95, R329): the payload of an LS that a CC slot has brought. -/
def execLsReceive (d : DieId) (ls : BitVec 64) (s : State) : Result :=
  onDie s d fun _ x =>
    if !isLs ls || !x.on F.qEnable then x
    else
      let lock := blk ls 10 4
      let req := blk ls 14 4
      let svc := blk ls 18 4
      let x := if req / 2 != 0 then (if x.power = .deep then x.wake 1 else x).wakeLanes req else x
      let x := lanesAll.foldl (fun x k => x.setLane k ((x.lane k).asked (bitAt lock k.val) (bitAt req k.val)
        (if bitAt svc k.val then some (blk ls 22 2, blk ls 24 1 != 0) else none))) x
      x.tapRequest ls 25

/-- LANE_SERVICE_END (R102): the lane goes to VERIFY, and RETRAIN_REQ is set only when it leaves ACTIVE (R99); a VERIFY that fails
retrains it without that bit (DESIGN CHOICE, assumption 52). `errors` and `n` are what the checker has counted in sync since its last report. -/
def execLaneServiceEnd (d : DieId) (k : Lane) (errors n : Nat) (s : State) : Result :=
  onDie s d fun _ x =>
    if x.laneSt k = 7 then
      let x := if x.on (F.prbsSync k.val) then x.prbsAdd k errors n else x
      let x := x.flag (F.prbsSync k.val) false
      let x := (x.setLane k { x.lane k with serviceReq := none, port := false, verified := false, tuned := false }).laneTo k 5
      match x.hif.service with
      | some j => { x with hif := { x.hif with service := none } }.completeJob j 0x00
      | none => x
    else x

/-- PRBS_SYNC (R103). -/
def execPrbsSync (d : DieId) (k : Lane) (s : State) : Result :=
  onDie s d fun _ x =>
    if x.laneSt k = 7 then (x.setLane k { x.lane k with prbsTried := true }).flag (F.prbsSync k.val) true else x

/-- PRBS_SYNC_LOSS (R103). -/
def execPrbsSyncLoss (d : DieId) (k : Lane) (errors n : Nat) (s : State) : Result :=
  onDie s d fun _ x =>
    if x.laneSt k = 7 && x.on (F.prbsSync k.val) then (x.prbsAdd k errors n).flag (F.prbsSync k.val) false else x

/-- PRBS_NO_SYNC (R103): no sync since the service began; raised once in a service. -/
def execPrbsNoSync (d : DieId) (k : Lane) (s : State) : Result :=
  onDie s d fun _ x =>
    if x.laneSt k = 7 && !(x.lane k).prbsTried then
      (x.setLane k { x.lane k with prbsTried := true }).raise 0x2B (laneDetail k)
    else x

/-- The margin events of R105, each raised once and re-armed after a recovery by 2 steps (DEDUCED, assumption 13). -/
def Die.marginEvents (x : Die) (k : Lane) (h w : Nat) : Die :=
  let l := x.lane k
  let low := h < x.get F.minH || w < x.get F.minW
  let lowOk := x.get F.minH + 2 ≤ h && x.get F.minW + 2 ≤ w
  let x := if low && !l.lowRaised then x.raise 0x28 (laneDetail k 0 h w) else x
  let vh := x.get (F.eyeVH k.val)
  let trend := h + x.get F.deltaH ≤ vh
  let trendOk := vh + 2 ≤ h + x.get F.deltaH
  let x := if trend && !l.trendRaised then x.raise 0x29 (laneDetail k 0 h w) else x
  x.setLane k { x.lane k with
    lowRaised := low || (l.lowRaised && !lowOk), trendRaised := trend || (l.trendRaised && !trendOk) }

/-- MARGIN_CROSS_SCAN (R105). -/
def execMarginCrossScan (d : DieId) (k : Lane) (height width : Byte) (s : State) : Result :=
  onDie s d fun _ x =>
    if x.laneSt k = 6 && x.get F.marginPeriod != 0 && x.hif.scan.isNone then
      let x := (x.put (F.eyeH k.val) height.toNat).put (F.eyeW k.val) width.toNat
      x.marginEvents k height.toNat width.toNat
    else x

/-- Lanes 1–3 fall ASLEEP, in both directions (R101, R328); a service under way on one of them ends. -/
def Die.sleepLanes (x : Die) : Die :=
  ([(1 : Lane), 2, 3].foldl (fun x k =>
    let x := if x.laneSt k = 7 then x.endService k else x
    ((x.setLane k { x.lane k with
      retrainReq := false, retrained := false, outTs := false, outJoin := false }).trainFrom k 9).setTraffic k false) x).updDouble

/-- LANE_PARTNER_ASLEEP (R328). -/
def execLanePartnerAsleep (d : DieId) (s : State) : Result :=
  onDie s d fun _ x =>
    if x.acd.nbrLeaving && x.laneSt 0 == 6 && x.power != .deep then
      (x.raise 0x25).sleepLanes
    else x

end Sys2Proof.Machine
end

