-- ==== Sys2Proof/Machine/Clock.lean ====
section
/-! DEFINITION. CCLK, holdover and the GCLK synthesisers (chapter 04). -/

namespace Sys2Proof.Machine

/-- Leave the GCLK request under way: nothing pends. -/
def Die.gclkIdle (x : Die) : Die :=
  ({ x with clk := { x.clk with phase := .none, cmd := none } }.flag F.gclkPend false).flag F.gclkIdleLock false

/-- Overtake the request under way: its ring command, if it had one, completes with SUPERSEDED (R83). -/
def Die.gclkCancel (x : Die) : Die :=
  let c := x.clk.cmd
  if x.clk.phase = .none then x else x.gclkIdle.completeOpt c 0x01

/-- Start the idle synthesiser at `fword` (R83 step 1, R86). -/
def Die.gclkLock (x : Die) (fword : Nat) (cmd : Option Cmd) : Die :=
  let held := x.power = .booting && !x.on F.cclkLock
  ({ x with clk := { x.clk with
      phase := if held then .held else .locking false, target := fword, cmd := cmd } }.flag F.gclkPend true).flag
    F.gclkIdleLock false

/-- A GCLK request (R82, R83, R86), by register write or by ring command (DEDUCED, assumption 12). -/
def Die.gclkRequest (x : Die) (fword : Nat) (cmd : Option Cmd) : Die :=
  if fword < 0x033334 || 0x666666 < fword then (x.raise 0x16 fword).completeOpt cmd 0x04
  else
    let x := x.put F.gclkNext fword
    if x.on F.gclkRun && x.get F.gclkCur = fword then x.gclkCancel.completeOpt cmd 0x00
    else x.gclkCancel.gclkLock fword cmd

/-- The request under way completes: count, event, ring command (R83 step 6, R86). -/
def Die.gclkDone (x : Die) (syn : Nat) : Die :=
  let t := x.clk.target
  let c := x.clk.cmd
  let x := { x with clk := { x.clk with seg := segClamp (x.get F.segLog2) } }
  let x := (((x.flag F.gclkRun true).put F.gclkSyn syn).put F.gclkCur t).bump F.gclkSwitches
  ((x.gclkIdle.raise 0x14 t).completeOpt c 0x00).scanCheck

/-- GCLK starts from rest once synthesiser A has settled, and not in BOOTING (R86) (DEDUCED, assumption 12). -/
def Die.gclkStart (x : Die) : Die :=
  if x.clk.phase = .waiting && !x.on F.gclkRun && x.power != .booting then x.gclkDone 0 else x

/-- GCLK stops at a low level, at the Sillage hand-off (R86, R322); a pending switch is cancelled. -/
def Die.gclkStop (x : Die) : Die := ((x.gclkCancel.flag F.gclkRun false).put F.gclkCur 0).put F.gclkSyn 0

/-- The CCLK PLL has locked (R70, R77, R86): a GCLK request held until now starts synthesiser A. -/
def Die.cclkLocked (x : Die) : Die :=
  let x := x.flag F.cclkLock true
  if x.clk.phase = .held then { x with clk := { x.clk with phase := .locking false } } else x

/-- CCLK_LOCK (R70, R86). -/
def execCclkLock (d : DieId) (s : State) : Result := onDie s d fun _ x => (x.flag F.refclkOk true).cclkLocked

/-- BOOT_REFCLK_TIMEOUT (R70): raised once. -/
def execBootRefclkTimeout (d : DieId) (s : State) : Result :=
  onDie s d fun _ x =>
    if x.power = .booting && !x.on F.refclkOk && !x.clk.bootLost then
      { x with clk := { x.clk with bootLost := true } }.raise 0x10
    else x

/-- REFCLK_HOLDOVER_EXPIRED (R76). -/
def execRefclkHoldoverExpired (d : DieId) (s : State) : Result :=
  onDie s d fun _ x =>
    if x.on F.holdover && !x.on F.holdoverExpired && !x.on F.refclkOk then
      { (x.flag F.holdoverExpired true).raise 0x12 with clk := { x.clk with txOff := true } }
    else x

/-- REFCLK_RETURN (R77). -/
def execRefclkReturn (d : DieId) (s : State) : Result :=
  onDie s d fun _ x =>
    if x.on F.holdover && !x.on F.refclkOk then
      { x.flag F.refclkOk true with clk := { x.clk with slewing := true } }
    else x

/-- Whether a die that follows die W may move back to REFCLK: die W has raised REFCLK_RESTORED (R78). -/
def Die.mayRestore (x : Die) : Bool :=
  !x.clk.follow || (match x.sti.peer with | some p => p.refRestored | none => false)

/-- REFCLK_RESTORED (R77, R78). -/
def execRefclkRestored (d : DieId) (s : State) : Result :=
  onDie s d fun _ x =>
    if x.clk.slewing && x.mayRestore then
      let off := x.clk.txOff
      let x := (x.cclkLocked.flag F.holdover false).flag F.holdoverExpired false
      let x := { x with
        clk := { x.clk with slewing := false, follow := false, txOff := false }
        sti := { x.sti with barred := false } }
      let x := x.raise 0x11
      if off && x.on F.qEnable then x.trainPort else x
    else x

/-- EB_SLIP (R72): each die has one Quodo port, and CLK_EB_SLIP counts its own port's slips (DEDUCED, assumption 53); the
slipped block counts as a lost block of the lane until the next CC slot (R110). -/
def execEbSlip (d : DieId) (k : Lane) (s : State) : Result :=
  onDie s d fun _ x =>
    if x.on F.qEnable then
      let x := (x.bump F.ebSlips).raise 0x17 (laneDetail k)
      (x.setLane k { x.lane k with slipped := true }).updDouble
    else x

/-- GCLK_REQUEST (R82, R83, R86): a BAR0 write of CLK_GCLK_NEXT. -/
def execGclkRequest (d : DieId) (v : Word) (s : State) : Result :=
  onDie s d fun _ x => x.gclkRequest (v.toNat % 2 ^ 24) none

/-- GCLK_IDLE_LOCK (R83 step 2). -/
def execGclkIdleLock (d : DieId) (s : State) : Result :=
  onDie s d fun _ x =>
    match x.clk.phase with
    | .locking _ => { x with clk := { x.clk with phase := .settling } }.flag F.gclkIdleLock true
    | _ => x

/-- GCLK_LOCK_TIMEOUT (R85). CLK_GCLK_COUNT counts one lock failure for each GCLK_LOCK_FAIL (DEDUCED, assumption 53). -/
def execGclkLockTimeout (d : DieId) (s : State) : Result :=
  onDie s d fun _ x =>
    match x.clk.phase with
    | .locking false => { x with clk := { x.clk with phase := .locking true } }
    | .locking true =>
      let t := x.clk.target
      let c := x.clk.cmd
      ((x.gclkIdle.bump F.gclkLockFails).raise 0x15 t).completeOpt c 0x07
    | _ => x

/-- Write CLK_GCLK_SEG (R318): refused while LDB is enabled where it breaks OFF_GCLK, or R313 at the running FWORD. -/
def Die.writeGclkSeg (x : Die) (v : Word) (mask : Word := 0xFFFFFFFF) : Die :=
  let w := (x.reg 0x040C &&& ~~~mask) ||| (v &&& mask)
  let seg := segClamp (w.toNat % 16)
  if x.keeps 0x040C v mask then x
  else if x.on F.ldbEn &&
      (2 ^ seg ≤ x.get F.offGclk || (x.on F.gclkRun && scanTooSlow x.scanRatio seg (x.get F.gclkCur) x.rateMin)) then
    x.raise 0xAC (refusedDetail 0x040C w)
  else x.put F.segLog2 (w.toNat % 16)

/-- GCLK_SEG_WRITE (R318). -/
def execGclkSegWrite (d : DieId) (v : Word) (s : State) : Result :=
  onDie s d fun _ x => x.writeGclkSeg v

/-- Write CLK_LDB_RATE (R80): stored only while the formatter is disabled, and only codes 0x0–0x4. -/
def Die.writeLdbRate (x : Die) (v : Word) (mask : Word := 0xFFFFFFFF) : Die :=
  let w := (x.reg 0x0410 &&& ~~~mask) ||| (v &&& mask)
  if x.keeps 0x0410 v mask then x
  else if x.on F.ldbEn || 4 < w.toNat % 8 then x.raise 0x18 (refusedDetail 0x0410 w) else x.put F.ldbRate (w.toNat % 8)

/-- LDB_RATE_WRITE (R80). -/
def execLdbRateWrite (d : DieId) (v : Word) (s : State) : Result :=
  onDie s d fun _ x => x.writeLdbRate v

end Sys2Proof.Machine
end

