-- ==== Sys2Proof/Machine/TrimRun.lean ====
section
/-! DEFINITION. The causes of Sillage (R321), and the order of a trim run (R343, R344, R350–R352): which kind is at work, what the end of a kind and of a run
leaves, and which run comes next. Kinds are 0 DESKEW, 1 THRESH, 2 RXOFF, 3 IREF. -/

namespace Sys2Proof.Machine

/-- The standing causes, as PWR_SIL_STATUS bits [5:0] show them (R321). -/
def Die.causeBits (x : Die) : Nat := (x.reg 0x0848).toNat % 64

/-- Whether a cause of Sillage stands (R321). -/
def Die.causeStands (x : Die) : Bool :=
  x.on F.silHost || x.on F.silWall || x.on F.silIdle || x.on F.silRefclk || x.on F.silStitch

/-- TRM_STATUS of kind `k` (0 NEVER, 1 PASS, 2 FAIL, 3 RUNNING). -/
def trimKind (k : Nat) : F := { off := 0x6C04, lo := 2 * k, width := 2 }

/-- TRM_TEMP of kind `k`. -/
def trimTemp (k : Nat) : F := { off := 0x6C08, lo := 8 * k, width := 8 }

/-- The kinds of a mask in the order in which they run (R344). -/
def trimOrder (mask : Nat) : List Nat := [1, 0, 2, 3].filter fun k => bitAt mask k

/-- The kind at work. -/
def Die.trimHead (x : Die) : Option Nat := x.trim.todo.head?

/-- The next kind of the run begins. -/
def Die.trimHeadStart (x : Die) : Die :=
  match x.trimHead with
  | some k => { x with trim := { x.trim with pos := 0, bad := [], tap := [], waitRaised := false } }.put (trimKind k) 3
  | none => x

/-- A run of the kinds of `mask` begins (R344). -/
def Die.trimBegin (x : Die) (auto : Bool) (mask : Nat) : Die :=
  { x with trim := { x.trim with
      todo := trimOrder mask, auto := auto, ran := 0, passed := 0, missed := 0, old := x.get F.trmKinds
      irefDue := false } }.trimHeadStart

/-- The kinds that are due by themselves and may run now: DESKEW and THRESH need the scan, and none runs in SILLAGE-DEEP or
DRYDOWN (R351). -/
def Die.trimDue (x : Die) : Nat :=
  if x.power = .deep || x.power = .drydown then 0
  else x.trim.due &&& (if x.on F.scanOwn && !x.causeStands then 7 else 4)

/-- With no run under way, the kinds that are due begin, then a command that waits (R351) (DEDUCED, assumption 26). -/
def Die.trimNext (x : Die) : Die :=
  if !x.trim.todo.isEmpty then x
  else if x.trimDue != 0 then x.trimBegin true x.trimDue
  else match x.hif.trim with
    | some j => { x with trim := { x.trim with code := natAt j.args 4 2 % 4096 } }.trimBegin false (natAt j.args 0 1 % 16)
    | none => x

/-- A run ends (R350, R352): TRIM_DONE, and the command that asked for it completes. -/
def Die.trimEnd (x : Die) : Die :=
  let t := x.trim
  let x := x.bump F.trmRuns
  let x := if t.ran = t.passed then x else x.bump F.trmFails
  let x := x.raise 0xC0 (t.ran + 16 * t.passed + 256 * b2n t.auto)
  let x : Die := { x with trim := { x.trim with todo := [] } }
  let x := match t.auto, x.hif.trim with
    | false, some j =>
      { x with hif := { x.hif with trim := none } }.completeJob j (if t.missed = 0 then 0x00 else 0x05) (t.passed + 16 * t.missed)
    | _, _ => x
  x.trimNext

/-- The kind at work leaves the run; the next one begins, or the run ends. -/
def Die.trimPop (x : Die) : Die :=
  let x := { x with trim := { x.trim with todo := x.trim.todo.tail } }
  if x.trim.todo.isEmpty then x.trimEnd else x.trimHeadStart

/-- TRIM_FAIL for each lane or input that has failed (R352). -/
def Die.trimFailures (x : Die) (k : Nat) : Die :=
  x.trim.bad.foldl (fun x i => x.raise 0xC1 (k + 256 * i + 65536 * b2n x.trim.auto)) x

/-- What the last run of a kind has failed on (TRM_FAIL_LANES, TRM_FAIL_INPUTS). -/
def Die.trimFailMask (x : Die) (k : Nat) : Die :=
  let m := (x.trim.bad.eraseDups.map fun i => 2 ^ i).sum
  match k with
  | 0 => x.put F.failLanes m
  | 1 => x.put F.failThresh m
  | 2 => x.put F.failRxoff m
  | _ => x.flag F.failIref (m != 0)

/-- The taps that the kind at work has found take effect (R343, R345). -/
def Die.trimTaps (x : Die) (k : Nat) : Die :=
  let t := x.trim
  let set (old : List (Nat × Nat)) : List (Nat × Nat) := t.tap.foldl (fun m p => assoc m p.1 p.2) old
  { x with trim := match k with
      | 0 => { t with deskew := set t.deskew }
      | 1 => { t with thresh := set t.thresh }
      | 2 => { t with rxoff := set t.rxoff }
      | _ => { t with gain := (look t.tap 0).getD t.gain, offset := (look t.tap 1).getD t.offset } }

/-- The kind at work is done, at die temperature `temp` in 0.25 °C (R343, R350–R352): it has passed if nothing has failed, and
then its taps apply (DEDUCED, assumption 26). -/
def Die.trimKindDone (x : Die) (k : Nat) (temp : Int) : Die :=
  let ok := x.trim.bad.isEmpty
  let x := ((if ok then x.trimTaps k else x).trimFailMask k).trimFailures k
  let x := x.put (trimKind k) (if ok then 1 else 2)
  let x := if k < 3 then x.put (trimTemp k) (ofSigned 8 (roundDiv temp 4)) else x
  { x with trim := { x.trim with
      ran := x.trim.ran + 2 ^ k, passed := x.trim.passed + (if ok then 2 ^ k else 0)
      due := if x.trim.auto && k < 3 && bitAt x.trim.due k then x.trim.due - 2 ^ k else x.trim.due } }.trimPop

/-- The kind at work completes as not run (R350): its status is what it was. `again` says whether it is to run again. -/
def Die.trimMiss (x : Die) (again : Bool) : Die :=
  match x.trimHead with
  | some k =>
    { x with trim := { x.trim with
        missed := x.trim.missed + 2 ^ k, due := if again then x.trim.due ||| 2 ^ k else x.trim.due } }.put (trimKind k) (bits x.trim.old (2 * k) 2) |>.trimPop
  | none => x

/-- The scan is lost, or a Sillage cause has come: DESKEW and THRESH stop, to run again after the takeover
(collisions of chapter 21). -/
def Die.trimStop (x : Die) : Die :=
  let stop (x : Die) : Die := if x.trimHead = some 0 || x.trimHead = some 1 then x.trimMiss true else x
  stop (stop (stop (stop x)))

end Sys2Proof.Machine
end

