-- ==== Sys2Proof/Machine/Handoff.lean ====
section
/-! DEFINITION. LDB frames (R300–R304), the Sillage causes and the hand-offs (R321–R325), and the entry to DRYDOWN (R334). -/

namespace Sys2Proof.Machine

/-- The enabled LDB lanes, in order (LDB_LANES). -/
def Die.ldbLaneList (x : Die) : List Nat := (List.range 32).filter fun l => bitAt (x.get F.ldbLanes) l

/-- A word as the check takes it: high byte first (R302). -/
def wordBytes (w : BitVec 16) : List Byte := [BitVec.ofNat 8 (w.toNat / 256), BitVec.ofNat 8 w.toNat]

/-- A 16-bit word of an LDB frame. -/
def w16 (n : Nat) : BitVec 16 := BitVec.ofNat 16 n

/-- The CHECK word over words (R302, R230). -/
def ldbCheck (code : Nat) (ws : List (BitVec 16)) : BitVec 16 := w16 (cvu code (ws.flatMap wordBytes))

/-- A frame's words from SYNC to CHECK (R302). -/
def ldbFrame (code cmd addr row : Nat) (bc : Bool) (nicM1 bank : Nat) (pay : List (BitVec 16)) (alive : BitVec 16) :
    List (BitVec 16) :=
  let body := w16 (cmd * 2 ^ 12 + addr % 64 * 2 ^ 6 + row % 64) ::
    w16 (b2n bc * 2 ^ 15 + nicM1 % 64 * 2 ^ 9 + bank % 4 * 2 ^ 7) :: w16 pay.length :: pay ++ [alive]
  w16 0xA5C3 :: body ++ [ldbCheck code body]

/-- Send a frame on one lane after two IDLE words, under the lane's alive counter (R232, R300, R302). -/
def Die.ldbSend (x : Die) (lane cmd addr row : Nat) (bc : Bool) (nicM1 bank : Nat) (pay : List (BitVec 16)) : Die :=
  let (a, m) := nextAlive x.ldb.txAlive lane
  ({ x with ldb := { x.ldb with txAlive := m } }.emit (.ldbIdle lane 2)).emit
    (.ldb lane (ldbFrame (cvuSel x 2) cmd addr row bc nicM1 bank pay a))

/-- The scan words of LATCH and HOLD (R304). -/
def Die.scanWords (x : Die) (bank : Nat) : List (BitVec 16) :=
  [w16 (bank % 4 * 2 ^ 14 + x.get F.sM1 * 2 ^ 8 + x.clk.seg), w16 (x.get F.gclkCur / 2 ^ 16), w16 (x.get F.gclkCur),
   w16 (x.get F.offGclk * 2 ^ 8 + x.get F.addrDly)]

/-- A broadcast frame on every enabled lane. -/
def Die.ldbAll (x : Die) (cmd : Nat) (pay : List (BitVec 16)) : Die :=
  x.ldbLaneList.foldl (fun x l => x.ldbSend l cmd 0 0 true 0 0 pay) x

/-- The die gives up a takeover that has not sent RESUME; the panel stays holding (R333, collisions of chapter 19). -/
def Die.abandonTakeover (x : Die) : Die :=
  match x.takeover with
  | .waiting | .asked | .failed =>
    ({ x with
        takeover := .none, ldb := { x.ldb with dclk := false, requests := Vector.replicate 4 none } }.flag
      F.silTakeover false).flag F.echoBusy false
  | .none | .resumed => x

/-- Enter SILLAGE-RELAY without the scan and say so (R322); a GCLK switch that is pending is cancelled (DEDUCED, assumption 37). -/
def Die.enterRelay (x : Die) : Die := { x.gclkCancel with power := .relay }.raise 0x09 x.causeBits

/-- After a cause has come to stand: a takeover that has not sent RESUME is abandoned, and a die in ACTIVE that does not own
the scan enters SILLAGE-RELAY at once (R322). A die that owns it, or has sent RESUME, hands off at its frame end. -/
def Die.causeCame (x : Die) : Die :=
  let x := x.abandonTakeover
  let x := if x.causeStands then x.trimStop else x
  let x : Die := { x with
    handoffDue := x.handoffDue || (x.causeStands && ((x.power = .active && x.on F.scanOwn) || x.takeover = .resumed)) }
  if x.causeStands && x.power = .active && !x.on F.scanOwn && x.takeover != .resumed then x.enterRelay else x

/-- Whether a DEFECT_SCAN under way has still to hear from an IC (R278). -/
def Die.scanOpen (x : Die) : Bool := !x.ldb.scan.isEmpty || x.ldb.requests.toList.any (·.isSome)

/-- What is raised once per frame (R160, R226): with the frame's last line, or where the frame ends before it. -/
def Die.frameReports (x : Die) : Die :=
  let t := x.tmg
  let x := if t.late = 0 then x else x.raise 0x74 (min t.late 0xFFFFFFFF)
  let x := if t.reserved = 0 then x else x.raise 0x3B (min t.reserved 0xFFFF + 2 ^ 16 * t.reservedSlice)
  { x with tmg := { x.tmg with late := 0, reserved := 0, reservedSlice := 0 } }

/-- Step 3 of R322: clocks stop, the LDB pairs go high-impedance, SCAN_OWN clears and LDB_CTRL.EN stays. A die in ACTIVE
enters SILLAGE-RELAY; a die in DRYDOWN stays there. ICs that a DEFECT_SCAN has not asked yet stay unknown (R278), and the next
takeover reads the identity record again (R284). -/
def Die.handoffEnd (x : Die) : Die :=
  let x := x.gclkStop.frameReports
  let x : Die := { x with
    ldb := { x.ldb with
      dclk := false, driving := false, oe := false, requests := Vector.replicate 4 none
      unknown := x.ldb.unknown || x.scanOpen, scan := [] }
    wear := { x.wear with readDone := false }, handoffDue := false }
  let x := ((x.flag F.scanOwn false).flag F.echoBusy false).bump F.handoffs
  ({ x with power := if x.power = Power.active then Power.relay else x.power }.raise 0x09 x.causeBits).trimStop

/-- The HOLD frames of a hand-off, with the scan words in use and the bank that the panel displays or will display (R304,
R322, R325) (DEDUCED, assumption 25). -/
def Die.sendHold (x : Die) : Die := x.ldbAll 3 (x.scanWords x.ldb.latched)

/-- The normal hand-off of R322, for a die that owns the scan. -/
def Die.normalHandoff (x : Die) : Die :=
  if x.on F.scanOwn then (x.sendHold.emit .rowRelease).handoffEnd else x

/-- The immediate hand-off of R324, for a die that owns the scan. -/
def Die.immediateHandoff (x : Die) : Die :=
  if x.on F.scanOwn then ((x.emit .ldbCut).sendHold.emit .rowRelease).handoffEnd else x

/-- A re-target pass is abandoned (R272), with the cause in the detail word. -/
def Die.abortPass (x : Die) (why : Nat) : Die :=
  if x.wear.pass then { x with wear := { x.wear with pass := false } }.flag F.building x.wear.build |>.raise 0x93 why else x

/-- Entry to DRYDOWN (R334): the event with what started it, LEAVING, no more master syncs, the hand-off without waiting for
frame end, and the store's erase suspended for good. A die from SILLAGE-DEEP has handed off and forwards nothing. -/
def Die.enterDrydown (x : Die) (why : Nat) : Die :=
  match x.power with
  | .booting | .drydown => x
  | p =>
    let x := { x with power := .drydown, forwarding := p != Power.deep, acd := { x.acd with leaving := true } }.raise 0x0D why
    let x := x.abandonTakeover.flag F.isMaster false
    let x := if p = Power.deep then x else x.normalHandoff
    let x := x.abortPass 3
    if x.cst.op.erasing then
      { x with cst := { x.cst with suspended := true, drySuspended := true } }.flag F.cstSuspended true
    else x

end Sys2Proof.Machine
end

