-- ==== Sys2Proof/Machine/Stripes.lean ====
section
/-! DEFINITION. Blocks, stripes and CC slots (R106–R113), the delimiting of received parcels (R114, R118), and the sending of
parcels and slots (R108, R109, R113, R119). A 66-bit block carries its sync header in bits [65:64], 1 for data and 2 for
control, above its payload. -/

namespace Sys2Proof.Machine

/-- The IDLE block (R107). -/
def idleBlock : BitVec 66 := ctrlBlock 0x1E

/-- BTYPE of a control block; 0 for any other block. -/
def btype (b : BitVec 66) : Nat := if syncHdr b = 2 then pay64 b % 256 else 0

/-- Whether a sync header is valid (R106). -/
def hdrOk (b : BitVec 66) : Bool := syncHdr b == 1 || syncHdr b == 2

/-- Descramble the block of input `p`. -/
def Die.unscramble (x : Die) (p : Lane) (b : BitVec 66) : BitVec 66 × Die :=
  let l := x.lane p
  let (v, s) := descramble 64 (pay64 b) l.rxScr
  (BitVec.ofNat 66 (syncHdr b * 2 ^ 64 + v), x.setLane p { l with rxScr := s })

/-- The block of logical in-lane `k` among the blocks of the four inputs, in the order and polarity that training has found (R91).
An inverted input's block is inverted in every bit, before or after the descrambler alike. -/
def Die.logical (x : Die) (bs : List (BitVec 66)) (k : Lane) : BitVec 66 :=
  let b := bs.getD (x.get (F.lanePhys k.val)) 0
  if x.on (F.laneInv k.val) then ~~~b else b

/-- Descramble the four inputs of one block time, and put them into logical order (R91, R106). -/
def Die.unscrambleAll (x : Die) (b0 b1 b2 b3 : BitVec 66) : List (BitVec 66) × Die :=
  let (c0, x) := x.unscramble 0 b0
  let (c1, x) := x.unscramble 1 b1
  let (c2, x) := x.unscramble 2 b2
  let (c3, x) := x.unscramble 3 b3
  (lanesAll.map (x.logical [c0, c1, c2, c3]), x)

/-- A retrained lane that carries the partner's stream again is ACTIVE and in traffic (R98, R99). -/
def Die.rejoinLane (x : Die) (k : Lane) : Die :=
  let done := (x.lane k).retrained
  let x := ((x.laneActive k).setTraffic k true).joinStart
  let x := x.setLane k { x.lane k with retrainReq := false, retrained := false, noTune := false, verified := true }
  let x := { x with pcl := { x.pcl with carried := true } }
  if done then x.raise 0x22 (laneDetail k) else x

/-- Lanes that VERIFY has passed in a single-lane retrain rejoin when their block is no longer training (R98). -/
def Die.rejoinLanes (x : Die) (bs : List (BitVec 66)) : Die :=
  lanesAll.foldl (fun x k =>
    let b := bs.getD k.val 0
    if x.laneSt k = 5 && (x.lane k).verified && !(x.lane k).port && hdrOk b && btype b != 0xD2 then (x.rejoinLane k).updDouble
    else x) x

/-- Whether the receiver treats lane `k`'s block as missing (R110). -/
def Die.missing (x : Die) (k : Lane) (b : BitVec 66) : Bool := !x.inTraffic k || !hdrOk b || (x.lane k).slipped

/-- The 66-bit XOR of blocks (R108). -/
def xorBlocks (bs : List (BitVec 66)) : BitVec 66 := bs.foldl (· ^^^ ·) 0

/-- Bytes `from … 7` of a block's payload (R114). -/
def blockBytes (b : BitVec 66) (start : Nat) : List Byte := (le 8 (pay64 b)).drop start

/-- A parcel ends as failed (R117, R118): counted, and reported at most once per ms per port. -/
def Die.parcelFail (x : Die) (p : List Byte) (far : Bool) : Die :=
  (x.bump F.pclFail).raiseLim msCclk (b2n far) 0x30 (parcelDetail p far)

/-- The receiver takes the START block of a parcel. -/
def Die.rxSet (x : Die) (r : RxOpen) : Die := { x with pcl := { x.pcl with rx := r } }

/-- A block that is no START, outside a parcel (R107, R118). -/
def Die.rxStray (x : Die) (b : Option (BitVec 66)) : Die :=
  let x := x.rxSet .none
  match b with
  | some b => if [0x1E, 0xD2, 0xD4].contains (btype b) then x else x.bump F.pclFormat
  | none => x

/-- One block of the stream enters the receiver; none for a lost block (R107, R114, R118). A parcel keeps the algorithm with which
it began (R231). -/
def Die.rxBlock (x : Die) (b : Option (BitVec 66)) : Die :=
  let isStart := match b with | some b => btype b == 0x78 | none => false
  let isIdle := match b with | some b => btype b == 0x1E | none => false
  let isData := match b with | some b => syncHdr b == 1 | none => false
  let start (x : Die) : Die :=
    { x with pcl := { x.pcl with rx := .header (blockBytes (b.getD 0) 1) false, rxSel := cvuSel x 0 } }
  let bytes := if isData then blockBytes (b.getD 0) 0 else List.replicate 8 0
  match x.pcl.rx with
  | .none => if isStart then start x else x.rxStray b
  | .header h _ =>
    if isStart then start (x.parcelFail h false)
    else if isIdle then (x.parcelFail h false).rxSet .none
    else if isData then
      let h := h ++ bytes
      let len := natAt h 12 2
      if 57600 < len then (x.bump F.pclFormat).rxSet (.skip (dataBlocks len - 1))
      else x.rxSet (.known h (dataBlocks len - 1) false)
    else x.rxSet (.open h 2)
  | .known h left lost =>
    if isStart then start (x.parcelFail h false)
    else
      let h := h ++ bytes
      let lost := lost || !isData
      if left ≤ 1 then
        { x with pcl := { x.pcl with rx := .none, rxDone := x.pcl.rxDone ++ [(⟨h, lost⟩, x.pcl.rxSel)] } }
      else x.rxSet (.known h (left - 1) lost)
  | .open h n =>
    if isStart then start (x.parcelFail h false)
    else if isIdle then (x.parcelFail h false).rxSet .none
    else if 7203 ≤ n then (x.parcelFail h false).rxStray b
    else x.rxSet (.open h (n + 1))
  | .skip left =>
    if isStart then start x
    else if left ≤ 1 then x.rxSet .none
    else x.rxSet (.skip (left - 1))

/-- STRIPE_RECEIVE (R90, R91, R106–R112, R118): the blocks of the four inputs, as received. -/
def execStripeReceive (d : DieId) (b0 b1 b2 b3 : BitVec 66) (s : State) : Result :=
  onDie s d fun _ x =>
    if !x.on F.qEnable then x
    else
      let (bs, x) := x.unscrambleAll b0 b1 b2 b3
      let x := x.rejoinLanes bs
      let blk (k : Lane) : BitVec 66 := bs.getD k.val 0
      let par : Lane := Fin.ofNat 4 x.pcl.rxStripe
      let x := { x with pcl := { x.pcl with rxStripe := x.pcl.rxStripe + 1 } }
      let gone := lanesAll.filter fun k => x.missing k (blk k)
      let fix (k : Lane) : Option (BitVec 66) :=
        if gone.contains k then
          if gone.length = 1 then some (xorBlocks ((lanesAll.filter (· != k)).map blk)) else none
        else some (blk k)
      let got := (lanesAll.filter (· != par)).map fix
      let x :=
        if gone.length = 1 then x.bump F.pclRecon
        else if gone.length = 0 then (if xorBlocks bs != 0 then x.bump F.pclParity else x)
        else { x with pcl := { x.pcl with badStripe := true } }.updDouble
      got.foldl Die.rxBlock x

/-- Whether a block is none that R107 knows: its sync header is invalid, or it is a control block of another BTYPE. -/
def blockBad (b : BitVec 66) : Bool := !hdrOk b || (syncHdr b == 2 && !([0x1E, 0x78, 0xD2, 0xD4].contains (pay64 b % 256)))

/-- CC_SLOT_RECEIVE (R98, R99, R109, R110, R112): at least three lanes carry IDLE or LS, and the fourth one of them or no
valid block. It aligns the lanes; lanes that wait to join enter traffic. -/
def execCcSlotReceive (d : DieId) (b0 b1 b2 b3 : BitVec 66) (s : State) : Result :=
  onDie s d fun _ x =>
    if !x.on F.qEnable then x
    else
      let (bs, x) := x.unscrambleAll b0 b1 b2 b3
      let cc (b : BitVec 66) : Bool := btype b == 0x1E || btype b == 0xD4
      let n := (bs.filter cc).length
      let odd := (bs.zip lanesAll).all fun p => cc p.1 || blockBad p.1 || !x.inTraffic p.2
      if 3 ≤ n && (odd || n = 4) then
        let x := { x with pcl := { x.pcl with rxStripe := 0, badStripe := false, ccMissing := false } }
        let x := lanesAll.foldl (fun x k => x.setLane k { x.lane k with slipped := false }) x
        let x := x.rejoinLanes bs
        let x := lanesAll.foldl (fun x k => if x.laneSt k = 6 && !x.inTraffic k then x.rejoinLane k else x) x
        x.updDouble
      else x

/-- CC_SLOT_MISSING (R109 and the failures of chapter 06). -/
def execCcSlotMissing (d : DieId) (s : State) : Result :=
  onDie s d fun _ x =>
    if x.get F.traffic != 0 && !x.pcl.ccMissing then
      { x with pcl := { x.pcl with ccMissing := true } }.raise 0x3A
    else x

/-- PARCEL_OPEN_TIMEOUT (R118): 7203 blocks have been taken into a parcel whose LEN was lost. -/
def execParcelOpenTimeout (d : DieId) (s : State) : Result :=
  onDie s d fun _ x =>
    match x.pcl.rx with
    | .open h n => if 7203 ≤ n then (x.parcelFail h false).rxSet .none else x
    | _ => x

/-- `n` bits of a PRBS from its last 31 bits, first bit lowest (R103): patterns 1 PRBS-7, 2 PRBS-15, 3 PRBS-31. Each is the plain
sequence of its polynomial; SERVICE_INV alone inverts it (DESIGN CHOICE, assumption 52). -/
def prbsBits (pat : Nat) : Nat → BitVec 31 → Nat × BitVec 31
  | 0, r => (0, r)
  | n + 1, r =>
    let t := if pat = 1 then (5, 6) else if pat = 2 then (13, 14) else (27, 30)
    let b := b2n (r.getLsbD t.1 != r.getLsbD t.2)
    let (v, r) := prbsBits pat n ((r <<< 1) ||| BitVec.ofNat 31 b)
    (b + 2 * v, r)

/-- What out-lane `k` carries in a block time whose block for it is `b` (R101, R103, R106, R113): nothing while it is off or
asleep, the pattern or a TS in place of the block, otherwise the block. A silent lane shows as 0. -/
def Die.laneOut (x : Die) (k : Lane) (b : BitVec 66) : BitVec 66 × Die :=
  let l := x.lane k
  if x.clk.txOff || !x.on F.qEnable || x.laneSt k = 9 then (0, x)
  else match l.outPrbs with
    | some (pat, inv) =>
      let (v, r) := prbsBits pat 66 l.prbs
      let v := if inv then 2 ^ 66 - 1 - v else v
      (BitVec.ofNat 66 v, x.setLane k { l with prbs := r })
    | none =>
      let ts := l.outTs
      let b := if ts then ctrlBlock (x.tsBlock k).toNat else b
      let (b, l) := l.scrambled b
      (b, x.setLane k { l with tsSeq := if ts then l.tsSeq + 1 else l.tsSeq })

/-- Send one block time: the four lanes' blocks (R108, R113). -/
def Die.sendBlocks (x : Die) (b : Lane → BitVec 66) : Die :=
  let (c0, x) := x.laneOut 0 (b 0)
  let (c1, x) := x.laneOut 1 (b 1)
  let (c2, x) := x.laneOut 2 (b 2)
  let (c3, x) := x.laneOut 3 (b 3)
  x.emit (.blocks c0 c1 c2 c3)

/-- The fields of an LS that this die would send now, without LANE and CRC (R94). RX_LOCK covers a lane that has passed
VERIFY in a single-lane retrain (R98). -/
def Die.lsFields (x : Die) : Nat :=
  let sum (f : Lane → Bool) : Nat := lanesAll.foldl (fun n k => n + (if f k then 2 ^ k.val else 0)) 0
  let lock := sum fun k => x.laneSt k == 6 || (x.laneSt k == 5 && (x.lane k).verified && !(x.lane k).port)
  let svc := lanesAll.findSome? fun k => (x.lane k).serviceReq
  let tgt := x.reqLane
  0xD4 + 2 ^ 10 * lock + 2 ^ 14 * sum (fun k => (x.lane k).retrainReq) +
    2 ^ 18 * sum (fun k => (x.lane k).serviceReq.isSome) +
    (match svc with | some (pat, inv) => 2 ^ 22 * pat + 2 ^ 24 * b2n inv | none => 0) +
    (match (x.lane tgt).req with
      | some (pre, post) => 2 ^ 25 + 2 ^ 26 * tgt.val + 2 ^ 28 * pre + 2 ^ 32 * post
      | none => 0)

/-- Send a CC slot (R94, R98, R109): an LS in every slot while its content has changed within the last 16 slots, in every fourth
slot otherwise; IDLE in the others. Out-lanes that were to return at the next alignment point return with it. -/
def Die.sendSlot (x : Die) : Die :=
  let x := lanesAll.foldl (fun x k =>
    if (x.lane k).outJoin then x.setLane k { x.lane k with outTs := false, outJoin := false } else x) x
  let f := x.lsFields
  let age := if f = x.qphy.lsLast then x.qphy.lsAge else 0
  let ls := age < 16 || 3 ≤ x.qphy.lsSkip
  let x := { x with
    qphy := { x.qphy with lsLast := f, lsAge := min 16 (age + 1), lsSkip := if ls then 0 else x.qphy.lsSkip + 1 }
    pcl := { x.pcl with txStripe := 0 } }
  x.sendBlocks fun k => if ls then ctrlBlock (laneBlock (f + 2 ^ 8 * k.val)).toNat else idleBlock

/-- Send one stripe of three stream blocks (R108), and a CC slot before it where 2047 block times have passed without one (R109). -/
def Die.sendStripe (x : Die) (s0 s1 s2 : BitVec 66) : Die :=
  let x := if 2047 ≤ x.pcl.txStripe then x.sendSlot else x
  let par := x.pcl.txStripe % 4
  let b (k : Lane) : BitVec 66 :=
    if k.val = par then xorBlocks [s0, s1, s2]
    else
      let i := if k.val < par then k.val else k.val - 1
      [s0, s1, s2].getD i 0
  { x with pcl := { x.pcl with txStripe := x.pcl.txStripe + 1 } }.sendBlocks b

/-- The data blocks of bytes, 8 to a block (R114). -/
def dataBlocksOf : Nat → List Byte → List (BitVec 66)
  | 0, _ => []
  | n + 1, bs => if bs.isEmpty then [] else dataBlock (ofLe (bs.take 8)) :: dataBlocksOf n (bs.drop 8)

/-- A parcel's blocks (R114). -/
def parcelBlocks (p : List Byte) : List (BitVec 66) :=
  ctrlBlock (0x78 + 256 * ofLe (p.take 7)) :: dataBlocksOf p.length (p.drop 7)

/-- Send a list of stream blocks in stripes, the last one filled with IDLE (R108, R114). -/
def Die.sendStream : Nat → Die → List (BitVec 66) → Die
  | 0, x, _ => x
  | n + 1, x, bs =>
    match bs with
    | [] => x
    | _ => Die.sendStream n (x.sendStripe (bs.getD 0 idleBlock) (bs.getD 1 idleBlock) (bs.getD 2 idleBlock)) (bs.drop 3)

/-- A whole parcel leaves through the port. -/
def Die.sendParcel (x : Die) (p : List Byte) : Die :=
  let bs := parcelBlocks p
  Die.sendStream bs.length (x.emit (.parcel p)) bs

/-- CC_SLOT_SEND (R94, R98, R109). -/
def execCcSlotSend (d : DieId) (s : State) : Result :=
  onDie s d fun _ x => if x.on F.qEnable && !x.clk.txOff then x.sendSlot else x

/-- Bytes that wait in the forward queue (R119). -/
def Die.fwdBytes (x : Die) : Nat := (x.pcl.fwdQ.map List.length).sum

/-- Bytes that a queued local parcel takes in the local queue. -/
def TxLocal.size (t : TxLocal) : Nat := t.bytes.length + padOf (pLen t.bytes) + 6 + (if t.auth then 8 else 0)

/-- Bytes that wait in the local queue (R119). -/
def Die.locBytes (x : Die) : Nat := (x.pcl.locQ.map TxLocal.size).sum + (x.pcl.timeQ.map TxLocal.size).sum

/-- The Accord key's 16 bytes (ACC_ACD_KEY0–3). -/
def Die.accordKey (x : Die) : List Nat :=
  (List.range 4).flatMap fun k => (le 4 (x.get (F.accKey k))).map (·.toNat)

/-- The tag of an authenticated CTRL (R152): the first 8 bytes of the CMAC over header, payload and alive counter. -/
def Die.tag (x : Die) (body : List Byte) (alive : BitVec 16) : List Byte :=
  ((cmac x.accordKey ((body ++ le 2 alive.toNat).map (·.toNat))).take 8).map (BitVec.ofNat 8)

/-- A local parcel is given its alive counter, its tag and its check value (R117, R152, R232) and leaves. -/
def Die.sendLocal (x : Die) (t : TxLocal) : Die :=
  let (a, m) := nextAlive x.pcl.txAlive (2 * pType t.bytes + b2n (nextHop t.bytes))
  let x := { x with pcl := { x.pcl with txAlive := m } }
  let body := if t.auth then t.bytes ++ x.tag t.bytes a else t.bytes
  x.sendParcel (sealParcel (cvuSel x 0) body a)

/-- Note a parcel that ends the module's quiet (R326). -/
def Die.noteSent (x : Die) : Die := { x with pcl := { x.pcl with lastSent := some x.cclk } }

/-- Whether the die sets LEAVING in its SYNC parcels (R142, R327). -/
def Die.leaves (x : Die) : Bool := x.acd.leaving && (x.power == .drydown || (x.power == .relay && x.deepAllowed))

/-- Whether the die forwards (R24, R54, R326, R334). -/
def Die.forwards (x : Die) : Bool :=
  match x.power with
  | .active | .relay => true
  | .drydown => x.forwarding
  | _ => false

/-- Ask the partner of an asleep port to wake (R328, R329). -/
def Die.wakePartner (x : Die) : Die := x.wakeLanes 14

/-- Whether the port's lanes 1–3 are asleep (R101, R328). -/
def Die.portAsleep (x : Die) : Bool := x.laneSt 1 == 9 && x.laneSt 2 == 9 && x.laneSt 3 == 9

/-- PARCEL_TRANSMIT (R24, R113, R117, R119, R174, R328): the port of a cut-off die carries nothing but its SYNC parcels; otherwise, at a parcel boundary, a local TIME parcel first, then forwarded parcels
while more than 8 KiB wait, otherwise forwarded and local ones in turn. Nothing leaves a port without a lane in traffic; a
parcel for an asleep port stays queued and the partner is woken. -/
def execParcelTransmit (d : DieId) (s : State) : Result :=
  onDie s d fun _ x =>
    if !x.forwards || x.on F.cutOff then x
    else if x.portAsleep then (if x.pcl.fwdQ.isEmpty && x.pcl.locQ.isEmpty && x.pcl.timeQ.isEmpty then x else x.wakePartner)
    else if x.get F.traffic = 0 || x.clk.txOff then x
    else
      match x.pcl.timeQ, x.pcl.fwdQ, x.pcl.locQ with
      | t :: ts, _, _ => { x with pcl := { x.pcl with timeQ := ts } }.sendLocal t
      | [], f :: fs, l :: ls =>
        if x.fwdBytes ≤ 8192 && x.pcl.localTurn then
          ({ x with pcl := { x.pcl with locQ := ls, localTurn := false } }.sendLocal l).noteSent
        else ({ x with pcl := { x.pcl with fwdQ := fs, localTurn := true } }.sendParcel f).noteSent
      | [], f :: fs, [] => ({ x with pcl := { x.pcl with fwdQ := fs, localTurn := true } }.sendParcel f).noteSent
      | [], [], l :: ls => ({ x with pcl := { x.pcl with locQ := ls, localTurn := false } }.sendLocal l).noteSent
      | [], [], [] => x

end Sys2Proof.Machine
end

