-- ==== Sys2Proof/Machine/Fields.lean ====
section
/-! DEFINITION. The fields that the host and the wall both reach (R150, R151), the Sillage orders among them (R321, R329),
and the queueing of parcels that this die originates (R119, R120). -/

namespace Sys2Proof.Machine

/-- The largest VALUE of a field; none for a FIELD outside the table (R150, R264). -/
def fieldMax (field : Nat) : Option Nat :=
  match field with
  | 1 => some 4095
  | 2 => some 4
  | 3 | 4 | 5 | 6 | 7 | 8 => some 1
  | 9 => some 255
  | _ => none

/-- Whether FIELD and VALUE are in the table. -/
def fieldOk (field value : Nat) : Bool :=
  match fieldMax field with
  | some m => value ≤ m
  | none => false

/-- Owner of a field: 0 either, 1 host, 2 wall (R150, ACC_ACD_OWNER). -/
def Die.owner (x : Die) (field : Nat) : Nat :=
  let o := bits (x.reg 0x1860).toNat (2 * field) 2
  if field = 4 || field = 7 || o = 3 then 0 else o

/-- FIELD_SUPERSEDED (R151): `loser` and `winner` are 0 for the host and 1 for the wall. -/
def Die.superseded (x : Die) (field loser winner : Nat) (seq : BitVec 16) : Die :=
  x.raise 0x4B (field + 256 * loser + 512 * winner + 65536 * seq.toNat)

/-- A Sillage order from one party reaches the die (R321): the cause of that party stands or clears; an exit also clears
REFCLK once REFCLK is valid, and STITCH once the stitch is UP (R77, R175). -/
def Die.sillageOrder (x : Die) (wall enter deepOk : Bool) : Die :=
  let x := if wall then (({ x with acd := { x.acd with wallSil := enter } }).flag F.silWall enter)
    else (({ x with acd := { x.acd with hostSil := enter } }).flag F.silHost enter).flag F.silHostDeep (enter && deepOk)
  let x := if enter then x
    else
      let x := if x.on F.refclkOk then x.flag F.silRefclk false else x
      if x.get F.stiState = 2 then
        let x := x.flag F.silStitch false
        if x.sti.idleCut then { x.flag F.silIdle false with sti := { x.sti with idleCut := false } } else x
      else x
  x.causeCame

/-- Outcomes of an order: the completion statuses OK, SUPERSEDED, NOT_OWNER (R151, R190). -/
def Die.order (x : Die) (wall : Bool) (field value : Nat) (seq : BitVec 16) (deepOk : Bool := false) : Nat × Die :=
  let party := b2n wall
  let own := x.owner field
  if (own = 1 && wall) || (own = 2 && !wall) then (0x02, x.raise 0x4A (field + 256 * party))
  else
    let x := if wall then { x with acd := { x.acd with wallSeqs := assoc x.acd.wallSeqs field seq } } else x
    let wseq := (look x.acd.wallSeqs field).getD 0
    let v := value != 0
    match field with
    | 1 => (0, x.put F.brightness value)
    | 2 => (0, x.put F.eotfSel value)
    | 3 => (0, { x with acd := { x.acd with freeze := v } })
    | 4 =>
      let other := if wall then x.acd.hostBlank else x.acd.wallBlank
      let x := { x with acd := { x.acd with
        hostBlank := if wall then x.acd.hostBlank else v, wallBlank := if wall then v else x.acd.wallBlank } }
      if !v && other then (0x01, x.superseded 4 party (1 - party) wseq) else (0, x)
    | 5 => (0, x.put F.heartEn value)
    | 6 => (0, x.put F.topEn value)
    | 7 =>
      if x.power = .drydown then (0x01, x.superseded 7 party party wseq)
      else
        let x := if wall then x else x.wake 2
        let other := if wall then x.acd.hostSil else x.acd.wallSil
        let x := x.sillageOrder wall v deepOk
        if !v && other then (0x01, x.superseded 7 party (1 - party) wseq) else (0, x)
    | 8 =>
      let x := if x.get F.tableBank != value then x.abortPass 2 else x
      (0, x.put F.tableBank value)
    | _ => (0, x.put F.ditherPhase value)

/-- The module address (ACC_PCL_CFG.ADDR). -/
def Die.addr (x : Die) : Nat := x.get F.pclAddr

/-- Queue a parcel for this die's own port. -/
def Die.queueLocal (x : Die) (t : TxLocal) : Die := { x with pcl := { x.pcl with locQ := x.pcl.locQ ++ [t] } }

/-- Queue a TIME parcel for this die's own port. -/
def Die.queueTime (x : Die) (bs : List Byte) : Die :=
  { x with pcl := { x.pcl with timeQ := x.pcl.timeQ ++ [⟨bs, false⟩] } }

/-- CVU-T makes the head of a message of class `cls`, under the class's alive counter (R166, R232). -/
def Die.stiSend (x : Die) (cls : Nat) (pay : List Byte) : StiHead × Die :=
  let (a, t) := nextAlive x.sti.txAlive cls
  (stiHead (cvuSel x 1) cls pay a, { x with sti := { x.sti with txAlive := t } })

/-- The CCLK count at which a PARCEL message of `n` bytes has crossed, if it is sent now: after those that are queued (R168). -/
def Die.crossEnd (x : Die) (n : Nat) : Nat := max x.cclk (x.sti.crossing.getLastD 0) + (n + 10 + 31) / 32

/-- Send a parcel to the other die (R166, R168), or lose it while the stitch is not UP (R172). -/
def Die.cross (x : Die) (m : StiParcel) : Die :=
  if x.get F.stiState = 2 then
    let (h, x) := x.stiSend 3 m.bytes
    { x with sti := { x.sti with
        crossing := (x.sti.crossing.filter (x.cclk < ·)) ++ [x.crossEnd m.bytes.length] } }.emit (.stiParcel h m)
  else x.bump F.stiFwdLost

/-- Send a LOCK message (R169): readiness for a frame, or a frame start. -/
def Die.sendLock (x : Die) (m : StiLock) : Die :=
  if x.get F.stiState = 2 then
    let (h, x) := x.stiSend 1 m.bytes
    x.emit (.stiLock h m)
  else x

/-- Queue a parcel out of the port of arrival: the own one, or the one reached through the stitch (R120). -/
def Die.queueTo (x : Die) (far : Bool) (t : TxLocal) : Die :=
  if far then x.cross ⟨.originated t.auth, t.bytes⟩ else x.queueLocal t

/-- Queue a parcel out of both ports (R120). -/
def Die.queueBoth (x : Die) (t : TxLocal) : Die := (x.queueLocal t).cross ⟨.originated t.auth, t.bytes⟩

/-- Payload of a STAT parcel but for its last 8 bytes (R128). -/
def Die.statBody (x : Die) (c : Ctx) : List Byte :=
  let temp := match x.id with | .W => c.mod.meas.dieW | .E => c.mod.meas.dieE
  le 1 x.power.code ++ le 1 (x.get F.traffic + 16 * x.get F.degraded + 32 * x.get F.double) ++
    le 2 (min x.pcl.heldSince 0xFFFF) ++ le 4 (x.get F.pclFail) ++ le 8 x.ns ++
    le 6 (x.get F.frameLo + 2 ^ 32 * x.get F.frameHi) ++ le 2 temp.toNat

/-- A STAT parcel (R115, R128, R148). -/
def Die.statParcel (x : Die) (c : Ctx) (dst odie : Nat) (tail : List Byte) : List Byte :=
  mkHeader 5 false false dst x.addr (dieBit x.id) odie 0 0 0 32 ++ x.statBody c ++ tail

end Sys2Proof.Machine
end

