-- ==== Sys2Proof/Machine/FrameStore.lean ====
section
/-! DEFINITION. The frame store (R238, R240, R244), and which slices it takes (R13, R118, R121, R122, R156–R158). -/

namespace Sys2Proof.Machine

/-- Q, the place of one slice in bytes (R238). -/
def placeSize (ns : Nat) : Nat := min 57600 (2 ^ 23 / (32 * ns) * 32)

/-- Frame buffer `b`. -/
def Die.buf (x : Die) (b : Nat) : FrameBuf := x.tmg.buffers.toList.getD b .free

/-- Replace frame buffer `b`. -/
def Die.setBuf (x : Die) (b : Nat) (f : FrameBuf) : Die :=
  { x with tmg := { x.tmg with buffers := x.tmg.buffers.setIfInBounds b f } }

/-- DRAM address of slice `i` of buffer `b` (R238). -/
def Die.placeAt (x : Die) (b i : Nat) : Nat := b * 0x800000 + i * placeSize x.slices

/-- The four buffer numbers. -/
def bufNumbers : List Nat := [0, 1, 2, 3]

/-- A free buffer: neither the display slot nor the pending slot, and without a frame. -/
def Die.freeBuf (x : Die) : Option Nat :=
  bufNumbers.find? fun b => b != x.tmg.display && b != x.tmg.pending && (x.buf b).frame.isNone

/-- The buffer that holds frame `n`. -/
def Die.bufOf (x : Die) (n : Nat) : Option Nat := bufNumbers.find? fun b => (x.buf b).frame == some n

/-- The newest frame number that the store has taken. -/
def Die.newest (x : Die) : Option Nat :=
  bufNumbers.foldl (fun m b => match m, (x.buf b).frame with
    | none, f => f
    | some a, some f => some (max a f)
    | m, none => m) none

/-- Whether an event limited to once per `period` CCLK would be written now. -/
def Die.limitOpen (x : Die) (period key code : Nat) : Bool :=
  match look x.limits (256 * code + key) with
  | some t => t + period ≤ x.cclk
  | none => true

/-- A forced drop (R244): the buffer of the lowest-numbered frame other than the displayed one is freed, its deadline
forgotten, the drop counted and reported at most once per second. -/
def Die.forceDrop (x : Die) : Die :=
  let bs := bufNumbers.filter fun b => b != x.tmg.display
  let low := bs.foldl (fun m b => match m, (x.buf b).frame with
    | none, some f => some (b, f)
    | some (b', f'), some f => if f < f' then some (b, f) else some (b', f')
    | m, none => m) (none : Option (Nat × Nat))
  match low with
  | none => x
  | some (b, f) =>
    let x := ((x.setBuf b .free).bump F.tmgDrop).bump F.tmgForced
    let x := { x with
      tmg := { x.tmg with pending := b, nForced := x.tmg.nForced + 1 }
      acd := { x.acd with deadlines := x.acd.deadlines.filter (·.frame != f) } }
    let go := x.limitOpen secCclk 0 0x83
    let x := x.raiseLim secCclk 0 0x83 (min x.tmg.nForced 0xFFFF)
    if go then { x with tmg := { x.tmg with nForced := 0 } } else x

/-- There is a pending slot for a new frame: a free buffer, or one freed by force (R240, R244). -/
def Die.needPending (x : Die) : Die :=
  if x.tmg.pending < 4 then x
  else match x.freeBuf with
    | some b => { x with tmg := { x.tmg with pending := b } }
    | none => x.forceDrop

/-- The newest committed copy of slice `i` with a frame number below `n`: buffer, frame number, LEN and CODEC (R240). -/
def Die.newestCopy (x : Die) (i n : Nat) : Option (Nat × Nat × Nat × Nat) :=
  let all := bufNumbers.flatMap fun b => ((x.buf b).slices.filter (fun s => s.1 == i && s.2.1 < n)).map fun s => (b, s.2)
  all.foldl (fun m c => match m with
    | none => some c
    | some a => if a.2.1 < c.2.1 then some c else some a) none

/-- Fill slice `i` of buffer `b`, which holds frame `n`, from the newest older copy; without one the place stays black
(R240). What M0 reads poisoned stays poisoned in the copy (R225) (DEDUCED, assumption 31). -/
def Die.fillSlice (x : Die) (b n : Nat) (i : Nat) : Die :=
  match x.newestCopy i n with
  | some (b', f, len, codec) =>
    let src := x.placeAt b' i
    let dst := x.placeAt b i
    let ue := wordsIn x.mem.dramUe (src, len)
    let (bs, x) := x.readAs 0 true src len
    let x := (x.noteUe 0 ue).writeAs 0 true dst bs
    let x : Die := { x with mem := { x.mem with dramUe := (x.mem.dramUe ++ ue.map fun w => dst + (w - src)).eraseDups } }
    x.setBuf b { x.buf b with slices := (x.buf b).slices ++ [(i, f, len, codec)] }
  | none => x

/-- Whether a settled frame waits for its start. -/
def Die.frameWaits (x : Die) : Bool := bufNumbers.any fun b => b != x.tmg.display && (x.buf b).settled

/-- Whether a die that entered SILLAGE-RELAY under R174 may leave it by itself (R175). -/
def Die.autoExits (x : Die) : Bool := x.on F.autoExit && !x.acd.hostSil && !x.acd.wallSil

/-- The IDLE cause clears once a settled frame waits for its start at a JOINED die (R321); one that came while the die was cut off
clears so only where R175 lets the die leave by itself. -/
def Die.idleClear (x : Die) : Die :=
  if x.on F.silIdle && x.get F.join = 4 && x.frameWaits && (!x.sti.idleCut || x.autoExits) then
    { x.flag F.silIdle false with sti := { x.sti with idleCut := false } }
  else x

/-- The frame in the pending slot becomes settled (R240): missing slices are held, and a free buffer becomes the new pending
slot. -/
def Die.settle (x : Die) : Die :=
  let b := x.tmg.pending
  match (x.buf b).frame with
  | none => x
  | some n =>
    let missing := (List.range x.slices).filter fun i => !((x.buf b).slices.any (·.1 == i))
    let x := missing.foldl (fun x i => x.fillSlice b n i) x
    let x := x.setBuf b { x.buf b with settled := true, held := missing.length }
    let y : Die := { x with tmg := { x.tmg with pending := x.freeBuf.getD 4 } }
    (y.sendLock ⟨n, none, true⟩).idleClear

/-- FRAME_DONE for frame `n` has been received (R240): it settles that frame in the pending slot, and no other frame. A frame of which
no slice has come is settled with every slice held, if the pending slot is free for it (DEDUCED, assumption 20). -/
def Die.frameDone (x : Die) (n : Nat) : Die :=
  match (x.buf x.tmg.pending).frame with
  | some p => if p = n then x.settle else x
  | none =>
    let new := match x.newest with
      | some m => decide (m < n)
      | none => true
    if new then
      let x := x.needPending
      (x.setBuf x.tmg.pending { FrameBuf.free with frame := some n }).settle
    else x

/-- The runs of an exact map are well formed (R158): each within the block columns, in rising order and apart. -/
def runsOk (nb : Nat) : Option (Nat × Nat) → List Nat → Bool
  | _, [] => true
  | prev, r :: t =>
    let first := bits r 0 9
    let count := bits r 9 9
    let row := bits r 18 1
    let apart := match prev with
      | none => true
      | some (prow, pend) => prow < row || (prow = row && pend ≤ first)
    1 ≤ count && first + count ≤ nb && bits r 19 13 == 0 && apart && runsOk nb (some (row, first + count)) t

/-- Runs of the exact map of a payload. -/
def mapRuns (pay : List Byte) : List Nat := (List.range (natAt pay 0 2)).map fun i => natAt pay (4 + 4 * i) 4

/-- Bytes of a coded block (R157). -/
def blockSize (codec : Nat) : Nat := if codec = 1 then 20 else 15

/-- Whether a payload of `w`'s half follows its CODEC (R156–R158). -/
def codecOk (w codec : Nat) (pay : List Byte) : Bool :=
  let wc := w + 16
  let len := pay.length
  if codec = 0 then len == 30 * wc
  else if codec = 1 || codec = 2 then
    let nb := wc / 4
    let s := blockSize codec
    if w % 4 != 0 then false
    else if len = 2 * nb * s then true
    else
      let nr := natAt pay 0 2
      let ne := ((mapRuns pay).map fun r => bits r 9 9).sum
      4 ≤ len && 1 ≤ nr && nr ≤ 64 && natAt pay 2 2 == 0 && runsOk nb none (mapRuns pay) &&
        len == 4 + 4 * nr + 2 * nb * s + ne * (60 - s)
  else false

/-- Whether a VIDEO parcel keeps the limits of R116, R118, R158 and R238 at this die. -/
def Die.videoOk (x : Die) (p : List Byte) : Bool :=
  1 ≤ pLen p && pLen p ≤ 57600 && pDie p < 2 && pSlice p < x.slices && pLen p ≤ placeSize x.slices &&
    codecOk x.width (pCodec p) (payload p)

/-- An accepted slice reaches the frame store (R13, R121, R122, R240) (DEDUCED, assumption 43). -/
def Die.takeSlice (x : Die) (p : List Byte) (far : Bool) : Die :=
  let n := pFrame p
  let i := pSlice p
  if bufNumbers.any fun b => (x.buf b).slices.any fun s => s.1 == i && s.2.1 == n then x.bump F.pclCopy
  else
    let pend := (x.buf x.tmg.pending).frame
    let stale := match x.newest with
      | some m => n < m || (n = m && pend != some n)
      | none => false
    if stale then (x.bump F.pclStale).raise 0x34 (parcelDetail p far)
    else
      let x := if pend.isSome && pend != some n then x.settle else x
      let x := x.needPending
      let b := x.tmg.pending
      let x := if pend = some n then x else x.sendLock ⟨n, none, false⟩
      let x := x.writeAs 0 true (x.placeAt b i) (payload p)
      let x := x.setBuf b { x.buf b with frame := some n, slices := (x.buf b).slices ++ [(i, n, pLen p, pCodec p)] }
      if (List.range x.slices).all fun j => (x.buf b).slices.any (·.1 == j) then x.settle else x

end Sys2Proof.Machine
end

