-- ==== Sys2Proof/Machine/Receive.lean ====
section
/-! DEFINITION. What every received parcel goes through: its check, the alive test, forwarding and acceptance (R10, R11, R116–
R119, R130, R168, R233, R234). `far` is the port that a parcel reached this module by: the other die's. -/

namespace Sys2Proof.Machine

/-- Add one to a 64-bit count held in a LO and a HI register. -/
def Die.count64 (x : Die) (lo hi : F) : Die :=
  let v := x.get lo + 2 ^ 32 * x.get hi + 1
  (x.put lo v).put hi (v / 2 ^ 32)

/-- The alive test of a parcel (R233, R234). -/
def Die.aliveParcel (x : Die) (p : List Byte) (far : Bool) : Bool × Die :=
  let key := AliveKey.parcel (BitVec.ofNat 8 (pSrc p)) (BitVec.ofNat 4 (pType p)) (nextHop p) far
  match x.alive 0 key (pAlive p) with
  | (.repeated, x) => (false, x.raiseLim msCclk (b2n far) 0x3C (parcelDetail p far))
  | (.gap _, x) => (true, x.raiseLim msCclk (b2n far) 0x3D (parcelDetail p far))
  | (.accepted, x) => (true, x)

/-- The algorithm that checks a parcel: the one with which it began (R231). -/
def Die.rxCode (x : Die) (p : RxParcel) : Nat := (look x.pcl.rxDone p).getD (cvuSel x 0)

/-- A parcel of the own port is checked and alive-tested (R117, R118, R231, R233). -/
def Die.receive (x : Die) (p : RxParcel) : Bool × Die :=
  let code := x.rxCode p
  let x := { x with pcl := { x.pcl with rxDone := x.pcl.rxDone.eraseP (·.1 == p) } }
  if 57600 < pLen p.bytes then (false, x.bump F.pclFormat)
  else if p.lost || !checkOk code p.bytes then (false, (x.bump (F.cvuFail 0)).parcelFail p.bytes false)
  else ((x.count64 F.pclGoodLo F.pclGoodHi).bump (F.cvuPass 0)).aliveParcel p.bytes false

/-- Whether a parcel's DST is this die's address, next hop or broadcast (R10). -/
def Die.addressed (x : Die) (p : List Byte) : Bool :=
  pDst p == 0xFE || pDst p == 0xFF || (pDst p == x.addr && 1 ≤ x.addr && x.addr ≤ 0xF0)

/-- Whether this die decides acceptance by the DIE field (R10): 0b11 belongs to the die whose port received the parcel. -/
def Die.decides (x : Die) (p : List Byte) (far : Bool) : Bool := namesDie (pDie p) x.id || (pDie p == 3 && !far)

/-- Whether this die is the origin die that ODIE names (R127, R148). -/
def Die.originDie (x : Die) (p : List Byte) : Bool := pOdie p == dieBit x.id

/-- A parcel that breaks the limits of R116 and R118 (PARCEL_FORMAT). -/
def Die.formatEvent (x : Die) (p : List Byte) (far : Bool) : Die :=
  x.raise 0x39 (parcelDetail p far)

/-- Whether a parcel that is addressed 0xFE must cross to the other die: one of CTRL, VIDEO or STAT that names it, or an
answer for it (R10, R127, R148). -/
def Die.nextHopCrosses (x : Die) (p : List Byte) : Bool :=
  if pType p = 3 || pType p = 5 then pOdie p == dieBit x.id.other
  else if pType p = 4 then false
  else namesDie (pDie p) x.id.other

/-- Send a received parcel to the other die: for forwarding out of its port, and for its own acceptance (R11, R119). -/
def Die.forward (x : Die) (p : List Byte) : Die :=
  if nextHop p && !x.nextHopCrosses p then x else x.cross ⟨.received, p⟩

/-- A parcel that has crossed is queued for this die's port (R119). -/
def Die.pushFwd (x : Die) (p : List Byte) : Die :=
  if nextHop p then x
  else if x.fwdBytes + p.length ≤ 131072 then { x with pcl := { x.pcl with fwdQ := x.pcl.fwdQ ++ [p] } }
  else (x.bump F.pclFwdDrop).raiseLim msCclk 1 0x32 (parcelDetail p true)

/-- A received parcel as a whole: checked and alive-tested, accepted by `take`, and forwarded. A die that does not forward
takes nothing (R24, R54). -/
def Die.port (x : Die) (p : RxParcel) (take : Die → Die) : Die :=
  if !x.on F.qEnable || !x.forwards then x
  else
    let (go, x) := x.receive p
    if go then (take x).forward p.bytes else x

end Sys2Proof.Machine
end

