-- ==== Sys2Proof/Machine/Accord.lean ====
section
/-! DEFINITION. Accord time: TIME parcels, hop counts, link delay, the servo, claims, joining, and presentation deadlines
(R130–R145). Times are in units of 2^-32 ns unless said otherwise. -/

namespace Sys2Proof.Machine

/-- One sixteenth of a CCLK: 0.15625 ns (R135). -/
def subUnit : Nat := 671088640

/-- One ns. -/
def nsUnit : Nat := 4294967296

/-- 50 ns and 10 µs. -/
def joinLimit : Nat := 214748364800
def stepLimit : Nat := 42949672960000

/-- 3.000 ms in CCLK. -/
def syncTimeout : Nat := 1200000

/-- Whether something seen at CCLK `t` was seen within 3.000 ms. -/
def Die.recent (x : Die) (t : Option Nat) : Bool :=
  match t with
  | some t => x.cclk ≤ t + syncTimeout
  | none => false

/-- ACC_ACD_HOPS follows the counts known through both ports; the own port's on a tie (R134). -/
def Die.updHops (x : Die) : Die :=
  let a := x.acd
  (((x.put F.hopsA (min a.ownA.toNat a.farA.toNat)).flag F.portA (a.farA.toNat < a.ownA.toNat)).put F.hopsB
    (min a.ownB.toNat a.farB.toNat)).flag F.portB (a.farB.toNat < a.ownB.toNat)

/-- The module's hop count: the smallest known one, 0xFF with none (R14, R134). -/
def Die.hops (x : Die) : Nat := min (x.get F.hopsA) (x.get F.hopsB)

/-- HOPS and HEND of a SYNC or BEACON on the own port (R134). -/
def Die.takeHops (x : Die) (h e : Nat) : Die :=
  if h = 0xFF then x
  else if e = 0 then { x with acd := { x.acd with ownA := BitVec.ofNat 8 (h + 1) } }.updHops
  else if e = 1 then { x with acd := { x.acd with ownB := BitVec.ofNat 8 (h + 1) } }.updHops
  else x

/-- HOPS and HEND of the SYNC that this die sends: the count through the module's other port (R131). -/
def Die.otherHops (x : Die) : Nat × Nat :=
  let a := x.acd.farA.toNat
  let b := x.acd.farB.toNat
  if a = 0xFF && b = 0xFF then (0xFF, 0xFF) else if a ≤ b then (a, 0) else (b, 1)

/-- Average of the link exchanges so far, in 1/16 ns; 0 before the first (R135, R136). -/
def Die.linkDelay (x : Die) : Int :=
  if x.acd.exchanges.isEmpty then 0 else x.acd.exchanges.sum / x.acd.exchanges.length

/-- One exchange completes (R135). A jump of more than 2 ns restarts the average. -/
def Die.exchange (x : Die) (e : Int) : Die :=
  let avg := x.linkDelay
  let x :=
    if !x.acd.exchanges.isEmpty && 32 < (e - avg).natAbs then
      { x with acd := { x.acd with exchanges := [] } }.raise 0x4C (ofSigned 32 (e - avg))
    else { x with acd := { x.acd with exchanges := (e :: x.acd.exchanges).take 16 } }
  x.put F.linkDly (ofSigned 32 x.linkDelay)

/-- Whether the die originates syncs. -/
def Die.master (x : Die) : Bool := x.on F.isMaster

/-- Whether a claim (MHOPS, address) is better than another (R14, R138). -/
def betterClaim (a b : Nat × Nat) : Bool := a.1 < b.1 || (a.1 = b.1 && a.2 < b.2)

/-- ACC_ACD_STATUS.MASTER changes; from one address to another it raises ACCORD_MASTER_CHANGE (R139). -/
def Die.setMaster (x : Die) (m mhops : Nat) : Die :=
  let old := x.get F.master
  let x := (x.put F.master m).put F.mhops mhops
  if old != 0 && m != 0 && old != m then x.raise 0x41 (m + 256 * old) else x

/-- A claim is seen (R138, R140): a claimant yields to a better one; a member follows the better of the claims it sees, and
another once its master's has not been seen for 3.000 ms. Answers whether the die follows the claim. R14 has the module that
yields become an ordinary member, R138 and R139 have it act as a standby; the model takes the latter (DEDUCED, assumption 54). -/
def Die.seeClaim (x : Die) (m mhops : Nat) : Bool × Die :=
  let x := { x with acd := { x.acd with noMaster := false } }
  let cur := x.get F.master
  if x.master then
    if m != x.addr && betterClaim (mhops, m) (x.hops, x.addr) then
      let x := { x.flag F.isMaster false with acd := { x.acd with yielded := true, masterAt := some x.cclk, rates := [] } }
      let x := (x.raise 0x42 m).setMaster m mhops
      (true, { x with acd := { x.acd with steady := 0, inLimit := 0, stepped := false } }.flag F.rateOk false |>.put F.join 1)
    else (false, x)
  else if cur = m || cur = 0 || betterClaim (mhops, m) (x.get F.mhops, cur) || !x.recent x.acd.masterAt then
    let x := if cur = m then x else { x with acd := { x.acd with rates := [] } }
    let x := x.setMaster m mhops
    (true, { x with acd := { x.acd with masterAt := some x.cclk } })
  else (false, x)

/-- The rate estimate from the syncs of the last 16 ms, in units of 2^-32 (R137): it keeps its value until two of them lie
apart. -/
def rateEstimate (rates : List (Nat × Nat)) (est : Int) : Int :=
  match rates, rates.getLast? with
  | (m1, c1) :: _, some (m0, c0) =>
    if c1 ≤ c0 then est
    else
      let e : Int := (((m1 : Int) - m0) * 2 ^ 32) / (((c1 : Int) - c0) * 10737418240) - 2 ^ 32
      max (-1288490) (min 1288490 e)
  | _, _ => est

/-- A sync's master time `mt` at this CCLK enters the rate estimate; RATE_OK once it has held still for 16 syncs (R137). -/
def Die.noteRate (x : Die) (mt : Nat) : Die :=
  let rates := ((mt, x.cclk) :: x.acd.rates).take 17
  let e := rateEstimate rates x.acd.est
  let steady := if (e - x.acd.est).natAbs ≤ 215 then min 16 (x.acd.steady + 1) else 0
  let x := { x with acd := { x.acd with rates := rates, est := e, steady := steady } }
  if 16 ≤ steady then x.flag F.rateOk true else x

/-- Step Accord time to `mt` (R140, R141); the times kept for link exchanges move with it. -/
def Die.stepTime (x : Die) (mt : Nat) : Die :=
  let delta : Int := (mt : Int) - x.acd.time
  let move (t : Nat) : Nat := ((t : Int) + delta).toNat
  { x with acd := { x.acd with
      time := mt, stepped := true, based := true, inLimit := 0, echoAt := move x.acd.echoAt
      departs := x.acd.departs.map fun p => (p.1, move p.2) } }

/-- The servo's rate, within ±300 ppm (R137): the estimate and a correction of at most ±100 ppm that slews out the offset `off`, so
down for a die that is ahead; its size the spec leaves open (DESIGN CHOICE, assumption 16). -/
def Die.servo (x : Die) (off : Int) : Die :=
  if x.acd.based then
    let c : Int := -(off.sign * (Config.freeNat x.free % 429497 : Nat))
    { x with free := x.free + 1, acd := { x.acd with rate := max (-1288490) (min 1288490 (x.acd.est + c)) } }
  else x

/-- The deadline of the first frame that a die without a previous start will select: the lowest that is not past, else the
highest held (R245; DEDUCED, assumption 23). -/
def Die.firstDeadline (x : Die) : Option Deadline :=
  let ds := x.acd.deadlines
  let pick (better : Nat → Nat → Bool) (l : List Deadline) : Option Deadline := l.foldl (fun m d => match m with
    | none => some d
    | some a => if better d.frame a.frame then some d else some a) none
  match pick (fun a b => a < b) (ds.filter fun d => x.ns ≤ d.time) with
  | some d => some d
  | none => pick (fun a b => b < a) ds

/-- A die without a previous start takes N = P(F − 1) (R245). -/
def Die.seedN (x : Die) : Die :=
  if x.tmg.lastNominal.isSome || x.tmg.firstN.isSome then x
  else { x with tmg := { x.tmg with firstN := x.firstDeadline.map (·.prev) } }

/-- The die has no previous start: it has just taken the scan or set RUN (R245). -/
def Die.freshStart (x : Die) : Die :=
  { x with
    tmg := { x.tmg with
      lastNominal := none, firstN := none, lastStart := none, due := none, inFrame := false, lines := 0 }
    sti := { x.sti with start := none } }.seedN

/-- A die that has just become JOINED has no previous start for the schedule; the frame that runs goes on (R245). -/
def Die.rejoinN (x : Die) : Die :=
  { x with tmg := { x.tmg with lastNominal := none, firstN := none } }.seedN

/-- The die reaches JOINED (R141). -/
def Die.joined (x : Die) : Die := ((x.put F.join 4).raise 0x40 (x.get F.master)).idleClear.rejoinN

/-- The join states that may follow at once: LISTEN ends with RATE_OK, MEASURE with 16 exchanges or time over the stitch
(R141). A die that has yielded slews to the better claim and does not step (R139, R173). -/
def Die.joinOn (x : Die) (far : Bool) : Die :=
  let x := if x.get F.join = 1 && x.on F.rateOk then x.put F.join 2 else x
  if x.get F.join = 2 && (far || 16 ≤ x.acd.exchanges.length) then
    { x.put F.join 3 with acd := { x.acd with stepped := x.acd.yielded, inLimit := 0 } }
  else x

/-- In LOCK the die steps once to the master, and is JOINED after 8 syncs in a row within ±50 ns; a JOINED die steps when it is
more than 10 µs off, and locks again (R140, R141). `off` is its offset to the master. -/
def Die.lockOn (x : Die) (mt : Nat) (off : Int) : Die :=
  if x.get F.join = 3 then
    if !x.acd.stepped then x.stepTime mt
    else
      let n := if off.natAbs ≤ joinLimit then x.acd.inLimit + 1 else 0
      let y : Die := { x with acd := { x.acd with inLimit := n } }
      if 8 ≤ n then y.joined else y
  else if x.get F.join = 4 && decide (stepLimit < off.natAbs) then
    ((x.stepTime mt).raise 0x45 (ofSigned 32 (Int.neg off / Int.ofNat (1000 * nsUnit)))).put F.join 3
  else x

/-- A usable sync: master time `mt` now (R137, R140, R141). -/
def Die.useSync (x : Die) (mt : Nat) (far : Bool) : Die :=
  let y := x.noteRate mt
  let y : Die := { y with acd := { y.acd with synced := true } }
  let y := y.joinOn far
  let off : Int := Int.ofNat y.acd.time - Int.ofNat mt
  let y := y.put F.accOffset (ofSigned 32 (off / 268435456))
  (y.lockOn mt off).servo off

/-- A TIME message over the stitch (R166, R167), while the stitch is UP. -/
def Die.sendTime (x : Die) (sync : Option SyncRelay) : Die :=
  if x.get F.stiState = 2 then
    let m : StiTime := ⟨x.acd.ownA, x.acd.ownB, x.id, sync⟩
    let (h, x) := x.stiSend 2 m.bytes
    x.emit (.stiTime h m)
  else x

/-- Whether this die may send SYNC out of its port now (R130, R327, R328). -/
def Die.sendsSync (x : Die) : Bool :=
  (x.power == .active || x.power == .relay || x.power == .drydown) && x.get F.traffic != 0 && !x.clk.txOff && !x.portAsleep

/-- Send a SYNC out of the own port, departing at `depart` (R131, R135, R142). Without `sync` it goes with TIME_OK = 0. -/
def Die.sendSync (x : Die) (depart : Nat) (claim : Bool) (sync : Option SyncRelay) : Die :=
  if !x.sendsSync then x
  else
    let (h, e) := x.otherHops
    let standby := x.get F.role = 2 || x.acd.yielded
    let flags := b2n claim + 2 * b2n standby + 4 * b2n (x.on F.rateOk) + 8 * b2n sync.isSome + 16 * b2n x.leaves
    let dwell := (depart - x.acd.echoAt) / 2 ^ 28
    let body := match sync with
      | some r => ([r.master, r.mhops], le 2 r.syncSeq.toNat ++ [r.mdist, 0] ++ le 8 r.origin.toNat ++ le 6 r.corr)
      | none => ([(0 : Byte), 0xFF], List.replicate 18 (0 : Byte))
    let pay := [(0x01 : Byte)] ++ le 1 h ++ le 1 e ++ body.1 ++ le 1 flags ++ [x.acd.linkSeq, x.acd.echoSeq] ++ body.2 ++
      le 4 dwell ++ [0, 0]
    let x := x.sendLocal ⟨mkHeader 4 false false 0xFE x.addr (dieBit x.id) 0 0 0 0 32 ++ pay, false⟩
    { x with acd := { x.acd with
        departs := ((x.acd.linkSeq, depart) :: x.acd.departs).take 4, linkSeq := x.acd.linkSeq + 1 } }

/-- SYNC_SEND (R130, R136, R138): a master originates, out of its own port and to the other die; any other die, and one that is cut
off (R174), sends its link fields with TIME_OK = 0. `sub` is the sixteenth of the CCLK in which the START block departs. -/
def execSyncSend (d : DieId) (sub : BitVec 4) (s : State) : Result :=
  onDie s d fun _ x =>
    let t := x.acd.time + sub.toNat * subUnit
    let x : Die := { x with leaveSyncs := if x.leaves then x.leaveSyncs + 1 else x.leaveSyncs }
    if x.master && x.power != .deep && !x.on F.cutOff then
      let r : SyncRelay := {
        master := BitVec.ofNat 8 x.addr, mhops := BitVec.ofNat 8 x.hops, syncSeq := x.acd.syncSeq, mdist := 0
        origin := BitVec.ofNat 64 (t / 2 ^ 32), corr := 0, flags := 1, arrival := 16 * x.cclk + sub.toNat }
      let x := { x with acd := { x.acd with syncSeq := x.acd.syncSeq + 1 } }
      (x.sendTime (some r)).sendSync t true (some r)
    else x.sendSync t false none

/-- Whether a copy of a sync at distance `dist` is the one to use: the lowest MDIST, the own port's on a tie (R137).
(DEDUCED, assumption 44). -/
def Die.bestCopy (x : Die) (far : Bool) (dist : Nat) : Bool :=
  if far then !x.recent x.acd.ownAt || dist < x.acd.ownDist.toNat
  else !x.recent x.acd.farAt || dist ≤ x.acd.farDist.toNat

/-- A sync with TIME_OK = 1 as it bears on this die: claim, distance, time (R136–R138). `mt` is the master time now; `ready`
says whether the port's link delay is settled. Answers whether the sync is relayed. Where both dies claim for their module, die
E takes die W's time, so that the claim has one time base (R138). -/
def Die.takeSync (x : Die) (r : SyncRelay) (dist mt : Nat) (far ready : Bool) : Bool × Die :=
  let m := r.master.toNat
  let peer : Bool := m = x.addr && r.mdist = 0
  let x := { x with acd := { x.acd with peerClaims := if far then peer else x.acd.peerClaims } }
  if x.master && x.id == .E && far && peer then
    (false, { x with acd := { x.acd with syncSeq := r.syncSeq } }.useSync mt far)
  else
  let (follow, x) := x.seeClaim m r.mhops.toNat
  if !follow then (!x.master, x)
  else
    let x :=
      if !ready then x
      else if far then { x with acd := { x.acd with farDist := BitVec.ofNat 8 dist, farAt := some x.cclk } }
      else { x with acd := { x.acd with ownDist := BitVec.ofNat 8 dist, ownAt := some x.cclk } }
    if (ready || x.get F.join = 1) && x.bestCopy far dist then
      let x := { x.put F.mdist dist with acd := { x.acd with syncSeq := r.syncSeq } }
      (true, if ready then x.useSync mt far else (x.noteRate mt).joinOn far)
    else (true, x)

/-- A received SYNC (R131, R134–R136, R142) (DEDUCED, assumption 43). One with LEAVING gives hop counts and no time. -/
def Die.onSync (x : Die) (pay : List Byte) (sub : Nat) : Die :=
  let tr := x.acd.time + sub * subUnit
  let b (i : Nat) : Nat := natAt pay i 1
  let flags := b 5
  let x := x.takeHops (b 1) (b 2)
  let t1 := (x.acd.departs.find? (fun p => p.1 == BitVec.ofNat 8 (b 7))).map (·.2)
  let leaving := bitAt flags 4
  let x : Die := { x with acd := { x.acd with nbrLeaving := leaving } }
  let x := if leaving then x.dropExchanges else x
  let x := match t1 with
    | some t1 =>
      if bitAt flags 2 && x.on F.rateOk && !leaving then
        x.exchange ((((tr : Int) - t1) / 2 ^ 28 - natAt pay 26 4) / 2)
      else x
    | none => x
  let x := { x with acd := { x.acd with echoSeq := BitVec.ofNat 8 (b 6), echoAt := tr } }
  if bitAt flags 3 && !leaving then
    let dly := x.linkDelay.toNat
    let corr := natAt pay 20 6 + dly * 4096
    let mt := natAt pay 12 8 * 2 ^ 32 + corr * 2 ^ 16 - sub * subUnit
    let r : SyncRelay := {
      master := BitVec.ofNat 8 (b 3), mhops := BitVec.ofNat 8 (b 4), syncSeq := BitVec.ofNat 16 (natAt pay 8 2)
      mdist := BitVec.ofNat 8 (b 10 + 1), origin := BitVec.ofNat 64 (natAt pay 12 8), corr := corr
      flags := BitVec.ofNat 8 flags, arrival := 16 * x.cclk + sub }
    let (relay, x) := x.takeSync r (b 10 + 1) mt false (16 ≤ x.acd.exchanges.length)
    if relay then x.sendTime (some r) else x
  else x

/-- A time of `n` sixteenths of a CCLK in master rate, in units of 2^-16 ns (R136, R137). -/
def Die.masterSpan (x : Die) (n : Nat) : Nat := ((n * 10240 : Nat) * ((2 : Int) ^ 32 + x.acd.rate) / 2 ^ 32).toNat

/-- A sync relayed by the other die (R135, R136): the residence since its arrival stamp, the crossing included, is added to CORR, and
it goes out of this die's port, its START block departing in sixteenth `sub` of this CCLK. -/
def Die.onRelay (x : Die) (r : SyncRelay) (sub : Nat) : Die :=
  let here (n : Nat) : Nat := r.corr + x.masterSpan (16 * x.cclk + n - r.arrival)
  let (relay, x) := x.takeSync r r.mdist.toNat (r.origin.toNat * 2 ^ 32 + here 0 * 2 ^ 16) true true
  if relay && !x.master then x.sendSync (x.acd.time + sub * subUnit) false (some { r with corr := here sub }) else x

/-- KIND of a TIME parcel. -/
def timeKind (p : List Byte) : Nat := natAt (payload p) 0 1

/-- Whether a TIME parcel keeps the limits of R116. -/
def timeOk (p : List Byte) : Bool := pLen p == 32 && pDie p < 2

/-- A parcel of type TIME with KIND `kind` on the own port. -/
def Die.timePort (x : Die) (p : RxParcel) (kind : Nat) (take : Die → Die) : Die :=
  if pType p.bytes = 4 && timeKind p.bytes = kind then
    x.port p fun x =>
      if !x.addressed p.bytes then x
      else if !timeOk p.bytes then x.formatEvent p.bytes false
      else take x
  else x

/-- SYNC_RECEIVE (R130, R134–R142). `sub` is the sixteenth of the CCLK in which the START block has arrived. -/
def execSyncReceive (d : DieId) (p : RxParcel) (sub : BitVec 4) (s : State) : Result :=
  onDie s d fun _ x => x.timePort p 1 fun x => x.onSync (payload p.bytes) sub.toNat

/-- BEACON_RECEIVE (R132–R134). -/
def execBeaconReceive (d : DieId) (p : RxParcel) (s : State) : Result :=
  onDie s d fun _ x => x.timePort p 2 fun x => x.takeHops (natAt (payload p.bytes) 1 1) (natAt (payload p.bytes) 2 1)

/-- TIME_PARCEL_BAD_KIND (R130). -/
def execTimeParcelBadKind (d : DieId) (p : RxParcel) (s : State) : Result :=
  onDie s d fun _ x =>
    let k := timeKind p.bytes
    if k = 0 || 4 < k then x.timePort p k fun x => x.bump F.badTime else x

/-- HOP_COUNT_EXPIRE (R134): a count that has not been refreshed for 3.000 ms. -/
def execHopCountExpire (d : DieId) (endB far : Bool) (s : State) : Result :=
  onDie s d fun _ x =>
    let a := x.acd
    let a := match endB, far with
      | false, false => { a with ownA := 0xFF }
      | true, false => { a with ownB := 0xFF }
      | false, true => { a with farA := 0xFF }
      | true, true => { a with farB := 0xFF }
    { x with acd := a }.updHops

/-- The die takes the master role (R138, R139): it is JOINED from the moment it originates syncs. -/
def Die.becomeMaster (x : Die) : Die :=
  let x := ((x.flag F.isMaster true).setMaster x.addr x.hops).put F.mdist 0
  let x := { x.flag F.rateOk true with acd := { x.acd with rate := 0, noMaster := false, yielded := false } }
  if x.get F.join == 4 then x else Die.joined x

/-- Whether the die claims (R138): with ROLE MASTER, at the end of its join, or at once when it sees no master. Die E with the
stitch UP waits for die W's time instead. -/
def Die.claims (x : Die) : Bool :=
  let noOne : Bool := x.get F.master = 0 || x.acd.noMaster
  let waits : Bool := x.id == DieId.E && x.get F.stiState == 2 && !x.acd.based
  x.get F.role == 1 && !x.master && !x.acd.yielded && (x.power == .active || x.power == .relay) &&
    (x.get F.join == 4 || (noOne && !waits))

/-- MASTER_CLAIM (R138). A time base with no predecessor is the keeper's real-time counter in ns. -/
def execMasterClaim (d : DieId) (s : State) : Result :=
  onDie s d fun c x =>
    if x.claims then
      let y : Die :=
        if x.acd.based then
          { x with acd := { x.acd with syncSeq := if x.acd.synced then x.acd.syncSeq + 1 else x.acd.syncSeq } }
        else x.stepTime (c.mod.rtc.toNat * (1000000000 * nsUnit))
      y.becomeMaster
    else x

/-- MASTER_TAKEOVER (R139): no sync from the current master for 3.000 ms. The time goes on without a step, also at a die that has
never stepped; frames are stamped from the next FRAME_DONE. -/
def execMasterTakeover (d : DieId) (s : State) : Result :=
  onDie s d fun _ x =>
    if (x.get F.role = 2 || x.acd.yielded) && !x.master && (x.power = .active || x.power = .relay) then
      { x with acd := { x.acd with syncSeq := x.acd.syncSeq + 3, based := true, awaitDone := true } }.becomeMaster
    else x

/-- ACCORD_SYNC_LOST (R140, R141): 1 s of holdover without a usable sync; the die listens again. -/
def execAccordSyncLost (d : DieId) (s : State) : Result :=
  onDie s d fun _ x =>
    if !x.master && 3 ≤ x.get F.join then
      let x := x.raise 0x44
      { x with acd := { x.acd with
          synced := false, rates := [], steady := 0, inLimit := 0, stepped := false, ownAt := none, farAt := none } }.flag
        F.rateOk false |>.put F.join 1
    else x

/-- ACCORD_NO_MASTER (R140): no claim seen for 3.000 ms. -/
def execAccordNoMaster (d : DieId) (s : State) : Result :=
  onDie s d fun _ x =>
    if !x.master && !x.acd.noMaster then { x with acd := { x.acd with noMaster := true } }.raise 0x43 else x

/-- Whether this die stamps frames for the module: a master, and die W where both dies claim and the stitch is UP (R138,
R143; DEDUCED, assumption 21). -/
def Die.stamps (x : Die) : Bool := x.master && !(x.id == .E && x.get F.stiState = 2 && x.acd.peerClaims)

/-- ACC_ACD_LATENCY in ns, held between 500 and 8000 µs (DEDUCED, assumption 48). -/
def Die.latencyNs (x : Die) : Nat := min 8000 (max 500 (x.get F.latencyUs)) * 1000

/-- Whether frame `n` may still be stamped: frames are stamped in rising order, whichever die has stamped
the last one (R139, R143). -/
def Die.unstamped (x : Die) (n : Nat) : Bool :=
  match x.acd.stamped with
  | some l => l.frame < n
  | none => true

/-- A deadline reaches the die (R144). The first one for a frame stands. -/
def Die.takeDeadline (x : Die) (dl : Deadline) : Die :=
  if x.acd.deadlines.any (·.frame == dl.frame) then x
  else
    let x := if dl.time < x.ns then x.raise 0x46 (min ((x.ns - dl.time) / 1000) 0xFFFFFFFF) else x
    { x with acd := { x.acd with
        deadlines := x.acd.deadlines ++ [dl], stamped := if x.unstamped dl.frame then some dl else x.acd.stamped } }.seedN

/-- Payload of a DEADLINE (R132). -/
def deadlinePayload (master : Nat) (dl : Deadline) (prevFrame : Nat) : List Byte :=
  [0x04] ++ le 1 master ++ [0, 0] ++ le 6 dl.frame ++ le 8 dl.time ++ le 6 prevFrame ++ le 8 dl.prev

/-- The master stamps frame `n` and sends the first DEADLINE out of both ports (R132, R143). -/
def Die.stamp (x : Die) (n : Nat) : Die :=
  let p := x.ns + x.latencyNs
  let follows := match x.acd.stamped with
    | some l => l.frame + 1 == n
    | none => false
  let prev := match x.acd.stamped with
    | some l => if follows then l.time else p
    | none => p
  let dl : Deadline := { frame := n, time := p, prev := prev }
  let bytes := mkHeader 4 false false 0xFF x.addr (dieBit x.id) 0 0 0 0 32 ++
    deadlinePayload x.addr dl (if follows then n - 1 else n)
  let x : Die := { x with acd := { x.acd with repeatDl := x.acd.repeatDl ++ [bytes] } }
  ((x.queueTime bytes).cross ⟨.originated false, bytes⟩).takeDeadline dl

/-- Whether this die stamps frame `n` now (R139, R143). -/
def Die.mayStamp (x : Die) (n : Nat) : Bool := x.stamps && x.unstamped n

/-- The first VIDEO parcel of a later frame stamps an earlier one whose FRAME_DONE is missing (R143); after a takeover not before the
next FRAME_DONE (R139). -/
def Die.videoSeen (x : Die) (n : Nat) : Die :=
  let missing (v : Nat) : Bool := v < n && !x.acd.awaitDone && (match x.acd.doneSeen with | some e => decide (e < v) | none => true)
  let x := match x.acd.videoSeen with
    | some v => if missing v && x.mayStamp v then (x.raise 0x47 v).stamp v else x
    | none => x
  { x with acd := { x.acd with videoSeen := some (max n (x.acd.videoSeen.getD n)) } }

/-- FRAME_DONE is accepted (R143, R240). -/
def Die.onFrameDone (x : Die) (pay : List Byte) : Die :=
  let n := natAt pay 4 6
  let x : Die := { x.frameDone n with acd := { (x.frameDone n).acd with
    doneSeen := some (max n (x.acd.doneSeen.getD n)), awaitDone := false } }
  if x.mayStamp n then x.stamp n else x

/-- A DEADLINE is accepted: the first with the current MASTER (R144). -/
def Die.onDeadline (x : Die) (pay : List Byte) : Die :=
  if natAt pay 1 1 = x.get F.master then
    x.takeDeadline { frame := natAt pay 4 6, time := natAt pay 10 8, prev := natAt pay 24 8 }
  else x

/-- FRAME_DONE_RECEIVE (R130, R143). -/
def execFrameDoneReceive (d : DieId) (p : RxParcel) (s : State) : Result :=
  onDie s d fun _ x => x.timePort p 3 fun x => x.onFrameDone (payload p.bytes)

/-- DEADLINE_RECEIVE (R130, R144). -/
def execDeadlineReceive (d : DieId) (p : RxParcel) (s : State) : Result :=
  onDie s d fun _ x => x.timePort p 4 fun x => x.onDeadline (payload p.bytes)

/-- DEADLINE_REPEAT (R130): the second copy of the oldest DEADLINE that still waits for it. -/
def execDeadlineRepeat (d : DieId) (s : State) : Result :=
  onDie s d fun _ x =>
    match x.acd.repeatDl with
    | bytes :: t =>
      ({ x with acd := { x.acd with repeatDl := t } }.queueTime bytes).cross ⟨.originated false, bytes⟩
    | [] => x

/-- A TIME parcel that has crossed the stitch (R130): FRAME_DONE, DEADLINE and unknown kinds are for both dies. -/
def Die.timeFar (x : Die) (p : List Byte) : Die :=
  if !x.addressed p then x
  else if !timeOk p then x
  else match timeKind p with
    | 1 => x
    | 2 => x
    | 3 => x.onFrameDone (payload p)
    | 4 => x.onDeadline (payload p)
    | _ => x.bump F.badTime

/-- ACC_ACD_KEY_WRITE (R4, R154): stored until the seal, without effect after it. -/
def execAccAcdKeyWrite (d : DieId) (k : Fin 4) (v : Word) (s : State) : Result :=
  onDie s d fun _ x => if x.barOpen && !x.on F.sealed then x.put (F.accKey k.val) v.toNat else x

end Sys2Proof.Machine
end

