-- ==== Sys2Proof/Machine/Parcels.lean ====
section
/-! DEFINITION. Parcels of every TYPE but TIME as they are accepted (chapter 06), CTRL windows and answers, a die as origin of
CTRL parcels, and the wall commands (R123–R128, R146–R153). -/

namespace Sys2Proof.Machine

/-- A VIDEO parcel, accepted or not (R118, R121, R143). -/
def Die.onVideo (x : Die) (p : List Byte) (far : Bool) : Die :=
  let y :=
    if !x.addressed p || !x.decides p far then x
    else if x.videoOk p then x.takeSlice p far
    else x.formatEvent p far
  y.videoSeen (pFrame p)

/-- VIDEO_PARCEL_RECEIVE (R10, R11, R117, R118, R121, R122). -/
def execVideoParcelReceive (d : DieId) (p : RxParcel) (s : State) : Result :=
  onDie s d fun _ x => if pType p.bytes = 1 then x.port p fun x => x.onVideo p.bytes false else x

/-- Whether a TYPE is reserved (R116). -/
def typeReserved (t : Nat) : Bool := t = 0 || 6 ≤ t

/-- A parcel of a reserved TYPE: accepted by no module, reported by one it addresses (R118). -/
def Die.onUnknown (x : Die) (p : List Byte) (far : Bool) : Die :=
  if x.addressed p && x.decides p far then x.raise 0x38 (parcelDetail p far) else x

/-- PARCEL_TYPE_UNKNOWN (R116, R118). -/
def execParcelTypeUnknown (d : DieId) (p : RxParcel) (s : State) : Result :=
  onDie s d fun _ x => if typeReserved (pType p.bytes) then x.port p fun x => x.onUnknown p.bytes false else x

/-- The window of an origin and DST (R124). -/
def Die.window (x : Die) (p : List Byte) : Option Window :=
  x.pcl.windows.find? fun w =>
    w.src.toNat == pSrc p && b2n w.odie == pOdie p && w.dst.toNat == pDst p

/-- Keep a window as the most recently used of at most four (R124). -/
def Die.setWindow (x : Die) (w : Window) : Die :=
  { x with pcl := { x.pcl with windows :=
      (w :: x.pcl.windows.filter fun v => !(v.src == w.src && v.odie == w.odie && v.dst == w.dst)).take 4 } }

/-- A window that starts at the first SEQ queued (R124). -/
def newWindow (p : List Byte) : Window :=
  { src := BitVec.ofNat 8 (pSrc p), odie := pOdie p == 1, dst := BitVec.ofNat 8 (pDst p)
    high := BitVec.ofNat 16 (pSeq p), map := 1, aliveOwn := none, aliveFar := none }

/-- The answer to a CTRL parcel, out of the port of arrival (R120, R125, R126): none to a parcel for 0xFF. -/
def Die.answer (x : Die) (p : List Byte) (far : Bool) (code : Nat) (dup : Bool) : Die :=
  if pDst p = 0xFF then x
  else
    let w := x.window p
    let high := (w.map fun w => w.high.toNat).getD 0
    let map := (w.map fun w => w.map.toNat).getD 0
    x.queueTo far ⟨mkHeader 3 false false (pSrc p) x.addr (dieBit x.id) (pOdie p) (pSeq p) 0 0 8 ++
      (le 1 code ++ le 1 (b2n dup) ++ le 2 high ++ le 4 map), false⟩

/-- Reserved bytes `i … j - 1` of a wall command are 0. -/
def zeroBytes (b : List Byte) (i j : Nat) : Bool := (bytesAt b i (j - i)).all (· == 0)

/-- Whether a wall command keeps its format (R146, R147, R150; DEDUCED for the ranges of ADDR_ASSIGN, ROLE_SET and
LATENCY_SET, assumption 22). -/
def wallFormatOk (b : List Byte) : Bool :=
  let when' := natAt b 1 1
  let args : Bool := match natAt b 0 1 with
    | 0 | 2 => b.length == 8
    | 1 => b.length == 16 && zeroBytes b 9 12 && fieldOk (natAt b 8 1) (natAt b 12 4)
    | 3 => b.length == 16 && zeroBytes b 11 16 && natAt b 8 1 < 2 && 1 ≤ natAt b 10 1 && natAt b 10 1 ≤ 0xF0
    | 4 => b.length == 16 && zeroBytes b 9 16 && natAt b 8 1 < 3
    | 5 => b.length == 16 && zeroBytes b 10 16 && 500 ≤ natAt b 8 2 && natAt b 8 2 ≤ 8000
    | _ => false
  args && when' < 3 && (when' == 2 || natAt b 2 6 == 0)

/-- ACC_ACD_QUEUE shows the queue and the deferred set. -/
def Die.updQueue (x : Die) : Die :=
  (x.put F.wallDepth x.pcl.wallQ.length).put F.wallDeferred x.pcl.deferred.length

/-- A refusal under R152 or R153: NAK_AUTH and ACCORD_AUTH_FAIL, with the window unchanged. -/
def Die.nakAuth (x : Die) (p : List Byte) (far : Bool) : Die :=
  (x.answer p far 3 false).raise 0x48 (256 * pSrc p + 65536 * pSeq p)

/-- The alive counter kept for the last authenticated CTRL of a window and port (R153). -/
def Window.aliveOf (w : Window) (far : Bool) : Option (BitVec 16) := if far then w.aliveFar else w.aliveOwn

/-- Whether a CTRL parcel passes authentication (R152, R153). -/
def Die.authentic (x : Die) (p : List Byte) (far : Bool) : Bool :=
  if pAuth p then
    let body := bytesAt p 0 (15 + (pLen p - 8))
    let last := (x.window p).bind (·.aliveOf far)
    let ahead := match last with
      | some l => let d := (pAlive p - l).toNat; 1 ≤ d && d ≤ 32767
      | none => true
    8 ≤ pLen p && bytesAt p (7 + pLen p) 8 == x.tag body (pAlive p) && ahead
  else !x.on F.authRequire

/-- Note the alive counter of an authenticated CTRL in its window (R153). -/
def Window.noteAlive (w : Window) (p : List Byte) (far : Bool) : Window :=
  if pAuth p then
    if far then { w with aliveFar := some (pAlive p) } else { w with aliveOwn := some (pAlive p) }
  else w

/-- An authenticated CTRL's alive counter becomes the value kept by its window, whatever becomes of the command; without a window none
is kept (R124, R153). -/
def Die.keepAlive (x : Die) (p : List Byte) (far : Bool) : Die :=
  let mine (v : Window) : Bool := v.src.toNat == pSrc p && b2n v.odie == pOdie p && v.dst.toNat == pDst p
  { x with pcl := { x.pcl with windows := x.pcl.windows.map fun v => if mine v then v.noteAlive p far else v } }

/-- A command enters the Accord command queue (R124, R149). -/
def Die.queueWall (x : Die) (p : List Byte) (far : Bool) : Die :=
  let c : WallCmd := {
    src := BitVec.ofNat 8 (pSrc p), odie := pOdie p == 1, seq := BitVec.ofNat 16 (pSeq p), far := far, bytes := wallBody p }
  { x with pcl := { x.pcl with wallQ := x.pcl.wallQ ++ [c] } }.updQueue

/-- The queue is full: NAK_BUSY, and the event once per 1 ms (R124, R149). -/
def Die.nakBusy (x : Die) (p : List Byte) (far : Bool) : Die :=
  ((x.answer p far 1 false).bump F.nakBusyCount).raiseLim msCclk 0 0x49

/-- The window test of R124 (DEDUCED, assumption 43). -/
def Die.windowTest (x : Die) (p : List Byte) (far : Bool) : Die :=
  match x.window p with
  | none =>
    if 16 ≤ x.pcl.wallQ.length then x.nakBusy p far
    else ((x.setWindow ((newWindow p).noteAlive p far)).queueWall p far).answer p far 0 false
  | some w =>
    let x := x.setWindow w
    let d := (BitVec.ofNat 16 (pSeq p) - w.high).toNat
    let back := (w.high - BitVec.ofNat 16 (pSeq p)).toNat
    if 1 ≤ d && d ≤ 32767 then
      if 16 ≤ x.pcl.wallQ.length then x.nakBusy p far
      else
        let x := x.setWindow { w with high := BitVec.ofNat 16 (pSeq p), map := (w.map <<< d) ||| 1 }
        (x.queueWall p far).answer p far 0 false
    else if d = 0 || 65505 ≤ d then
      if w.map.getLsbD back then (x.bump F.pclCtrlDup).answer p far 0 true
      else if 16 ≤ x.pcl.wallQ.length then x.nakBusy p far
      else
        let x := x.setWindow { w with map := w.map ||| (1 <<< back) }
        (x.queueWall p far).answer p far 0 false
    else (x.answer p far 2 false).raise 0x36 (256 * pSrc p + 65536 * pSeq p)

/-- A CTRL parcel (R118, R124–R126, R146, R147, R149, R152, R153). -/
def Die.onCtrl (x : Die) (p : List Byte) (far : Bool) : Die :=
  if !x.addressed p || !x.decides p far then x
  else if pLen p < 8 || 512 < pLen p || pDie p = 3 then x.formatEvent p far
  else if !x.authentic p far then x.nakAuth p far
  else
    let x := x.keepAlive p far
    if !wallFormatOk (wallBody p) then x.answer p far 4 false
    else if 3 ≤ natAt (wallBody p) 0 1 && !x.on F.wallAdmin then x.nakAuth p far
    else x.windowTest p far

/-- CTRL_PARCEL_RECEIVE (R124). -/
def execCtrlParcelReceive (d : DieId) (p : RxParcel) (s : State) : Result :=
  onDie s d fun _ x => if pType p.bytes = 2 then x.port p fun x => x.onCtrl p.bytes false else x

/-- Whether an answer matches an outstanding command (R127). -/
def Outstanding.matches (o : Outstanding) (p : List Byte) : Bool :=
  o.seq == BitVec.ofNat 16 (pSeq p) && (pSrc p == o.dst.toNat || o.dst == 0xFE) && o.dst != 0xFF &&
    (pDie o.bytes == 2 || pDie o.bytes == pDie p)

/-- Completion status of a NAK code (R190). -/
def nakStatus (code : Nat) : Nat := 0x0C + code

/-- DETAIL of an ACCORD_SEND (R190). -/
def Outstanding.detail (o : Outstanding) : Nat := o.seq.toNat + 65536 * min o.sent 255

/-- Replace or drop an outstanding command. -/
def Die.setOutstanding (x : Die) (old : Outstanding) (new : Option Outstanding) : Die :=
  { x with pcl := { x.pcl with outstanding :=
      x.pcl.outstanding.flatMap fun o => if o == old then new.toList else [o] } }

/-- Queue a CTRL parcel that this die originates, out of both ports (R120). -/
def Die.sendCtrl (x : Die) (o : Outstanding) (retx : Bool) : Die :=
  let bytes := match o.bytes with
    | b :: t => (if retx then b ||| 0x10 else b) :: t
    | [] => []
  x.queueBoth ⟨bytes, o.auth⟩

/-- The SEQ field of a parcel's header replaced. -/
def withSeq (bytes : List Byte) (seq : BitVec 16) : List Byte := bytes.take 4 ++ le 2 seq.toNat ++ bytes.drop 6

/-- The NAK that an outstanding command ends with: die W's over die E's (R190). -/
def Outstanding.nak (o : Outstanding) : Option Nat := match o.nakW with | some n => some n | none => o.nakE

/-- The next SEQ to the destination is HIGH + 1 after a NAK_STALE (R127). -/
def Die.resumeSeq (x : Die) (o : Outstanding) : Die :=
  match o.high with
  | some h => { x with pcl := { x.pcl with seqs := assoc x.pcl.seqs o.dst.toNat (h + 1) } }
  | none => x

/-- A command whose dies have all answered (R127, R149, R190): it is done, sent again after a first NAK_STALE with the next
SEQ, or waits to be repeated after NAK_BUSY. -/
def Die.settleAnswer (x : Die) (o : Outstanding) : Die :=
  if o.needW || o.needE then x
  else
    match o.nak with
    | none => (x.setOutstanding o none).completeOpt o.cmd 0x00 o.detail
    | some n =>
      if n = 2 && !o.stale then
        let seq := o.high.getD o.seq + 1
        let die := pDie o.bytes
        let o' := { o with
          seq := seq, bytes := withSeq o.bytes seq, stale := true, retx := 0, sent := o.sent + 1, nakW := none, nakE := none
          needW := namesDie die .W, needE := namesDie die .E, high := none }
        let x := x.setOutstanding o (some o')
        let x := { x with pcl := { x.pcl with seqs := assoc x.pcl.seqs o.dst.toNat (seq + 1) } }
        x.sendCtrl o' false
      else if n = 1 && o.busy < 8 then x
      else (x.setOutstanding o none).completeOpt o.cmd (nakStatus n)

/-- The later of two HIGHs of NAK_STALE answers, modulo 2^16: a SEQ after it is new to both dies (R127; DEDUCED, assumption 43). -/
def laterSeq (a : Option (BitVec 16)) (b : BitVec 16) : BitVec 16 :=
  match a with
  | some a => if (b - a).toNat ≤ 32767 then b else a
  | none => b

/-- An ACK or NAK for this die as origin (R127, R149, R190). -/
def Die.onAnswer (x : Die) (p : List Byte) : Die :=
  match x.pcl.outstanding.find? (·.matches p) with
  | none => x
  | some o =>
    let x := { x with pcl := { x.pcl with missing := x.pcl.missing.filter (· != o.dst) } }
    if o.missing then x.setOutstanding o none
    else
      let code := natAt (payload p) 0 1
      let nak := if code = 0 then none else some code
      let stale (o : Outstanding) : Outstanding :=
        if code = 2 then { o with high := some (laterSeq o.high (BitVec.ofNat 16 (natAt (payload p) 2 2))) } else o
      let o' :=
        if pDie p = 0 then (if o.needW then { stale o with needW := false, nakW := nak } else o)
        else (if o.needE then { stale o with needE := false, nakE := nak } else o)
      ((x.setOutstanding o (some o')).resumeSeq o').settleAnswer o'

/-- An ACK parcel (R118, R127) (DEDUCED, assumption 43). It answers a command only where its DST is this module's address. -/
def Die.onAck (x : Die) (p : List Byte) (far : Bool) : Die :=
  if x.addressed p && x.originDie p then
    if pLen p != 8 || 2 ≤ pDie p then x.formatEvent p far
    else if pDst p == x.addr then x.onAnswer p
    else x
  else x

/-- ACK_RECEIVE (R127). -/
def execAckReceive (d : DieId) (p : RxParcel) (s : State) : Result :=
  onDie s d fun _ x => if pType p.bytes = 3 then x.port p fun x => x.onAck p.bytes false else x

/-- A STAT parcel (R118, R148). What the origin die does with an answer to its query the spec does not say: nothing that can be
seen. -/
def Die.onStat (x : Die) (p : List Byte) (far : Bool) : Die :=
  if x.addressed p && x.originDie p && (pLen p != 32 || 2 ≤ pDie p) then x.formatEvent p far else x

/-- STAT_RECEIVE (R128, R148). -/
def execStatReceive (d : DieId) (p : RxParcel) (s : State) : Result :=
  onDie s d fun _ x => if pType p.bytes = 5 then x.port p fun x => x.onStat p.bytes false else x

/-- A STAT parcel enters the local queue, or is dropped when that is full (R119). -/
def Die.queueStat (x : Die) (far : Bool) (t : TxLocal) : Die :=
  if far then x.cross ⟨.originated false, t.bytes⟩
  else if x.locBytes + t.size ≤ 16384 then x.queueLocal t
  else (x.bump F.pclLocalDrop).raise 0x37

/-- STAT_SEND (R120, R128): out of every port that faces the sender; while none is known nothing is sent. -/
def execStatSend (d : DieId) (s : State) : Result :=
  onDie s d fun c x =>
    let own := x.acd.ownA != 0xFF || x.acd.ownB != 0xFF
    let far := x.acd.farA != 0xFF || x.acd.farB != 0xFF
    if x.on F.statEn && x.forwards && !(x.power == .relay && x.deepAllowed) && (own || far) then
      let p : TxLocal := ⟨x.statParcel c 0 0 (List.replicate 8 0), false⟩
      let x := if own then x.queueStat false p else x
      let x := if far then x.queueStat true p else x
      { x with pcl := { x.pcl with heldSince := 0 } }
    else x

/-- The outstanding command to `dst` with SEQ `seq`. -/
def Die.outstandingOf (x : Die) (dst : Byte) (seq : BitVec 16) : Option Outstanding :=
  x.pcl.outstanding.find? fun o => o.dst == dst && o.seq == seq && !o.missing

/-- CTRL_RETRANSMIT_TIMEOUT (R127): up to 4 retransmissions, then MISSING. -/
def execCtrlRetransmitTimeout (d : DieId) (dst : Byte) (seq : BitVec 16) (s : State) : Result :=
  onDie s d fun _ x =>
    match x.outstandingOf dst seq with
    | some o =>
      if dst = 0xFF || !(o.needW || o.needE) then x
      else if o.retx < 4 then
        let o' := { o with retx := o.retx + 1, sent := o.sent + 1 }
        ((x.setOutstanding o (some o')).bump F.pclRetx).sendCtrl o' true
      else
        let new := !x.pcl.missing.contains dst
        let x := x.setOutstanding o (some { o with missing := true, cmd := none })
        let x := { x with pcl := { x.pcl with missing := if new then x.pcl.missing ++ [dst] else x.pcl.missing } }
        let x := if new then x.bump F.pclMissing else x
        (x.raise 0x35 (dst.toNat + 256 * pDie o.bytes + 65536 * seq.toNat)).completeOpt o.cmd 0x0C
    | none => x

/-- NAK_BUSY_RETRY (R149): the same SEQ with RETX set, with a fresh count of retries, up to 8 times. -/
def execNakBusyRetry (d : DieId) (dst : Byte) (seq : BitVec 16) (s : State) : Result :=
  onDie s d fun _ x =>
    match x.outstandingOf dst seq with
    | some o =>
      if !o.needW && !o.needE && o.nak = some 1 && o.busy < 8 then
        let o' := { o with
          needW := o.nakW == some 1, needE := o.nakE == some 1
          nakW := if o.nakW == some 1 then none else o.nakW, nakE := if o.nakE == some 1 then none else o.nakE
          retx := 0, sent := o.sent + 1, busy := o.busy + 1 }
        (x.setOutstanding o (some o')).sendCtrl o' true
      else x
    | none => x

/-- Key of a command's origin in `Pcl.lastSeq` (R148). -/
def WallCmd.origin (w : WallCmd) : Nat := 2 * w.src.toNat + b2n w.odie

/-- The effect of a wall command on the die (R147, R148, R151). -/
def Die.applyWall (x : Die) (c : Ctx) (w : WallCmd) : Die :=
  let b := w.bytes
  let last := (look x.pcl.lastSeq w.origin).getD 0
  let x := match natAt b 0 1 with
    | 1 => (x.order true (natAt b 8 1) (natAt b 12 4) w.seq).2
    | 2 =>
      let tail := [(0x01 : Byte), 0] ++ le 2 w.seq.toNat ++ le 2 last.toNat ++ le 1 x.pcl.wallQ.length ++ [0]
      x.queueStat w.far ⟨x.statParcel c w.src.toNat (b2n w.odie) tail, false⟩
    | 3 =>
      let hops := if natAt b 8 1 = 0 then x.get F.hopsA else x.get F.hopsB
      if x.addr = 0 && hops != 0xFF && hops = natAt b 9 1 then x.put F.pclAddr (natAt b 10 1) else x
    | 4 => x.put F.role (natAt b 8 1)
    | 5 => x.put F.latencyUs (natAt b 8 2)
    | _ => x
  { x with pcl := { x.pcl with lastSeq := assoc x.pcl.lastSeq w.origin w.seq } }

/-- Whether a deferred command's frame has already started (R149): a frame at or below the displayed one. -/
def Die.framePast (x : Die) (b : List Byte) : Bool :=
  natAt b 1 1 = 2 && match (x.buf x.tmg.display).frame with
    | some f => decide (natAt b 2 6 ≤ f)
    | none => false

/-- Whether a command is applied as soon as it executes (R149): with WHEN = 0, or when its frame has started. -/
def Die.wallAtOnce (x : Die) (w : WallCmd) : Bool := natAt w.bytes 1 1 = 0 || x.framePast w.bytes

/-- The command at the head of the queue, of opcode `op`, executes (R149): at once, or it moves into the deferred set, or waits while
that is full. -/
def Die.wallHead (x : Die) (c : Ctx) (op : Nat) : Die :=
  match x.pcl.wallQ with
  | [] => x
  | w :: t =>
    if natAt w.bytes 0 1 != op || !x.forwards then x
    else if x.wallAtOnce w then
      ({ x with pcl := { x.pcl with wallQ := t } }.applyWall c w).updQueue
    else if 16 ≤ x.pcl.deferred.length then x
    else { x with pcl := { x.pcl with wallQ := t, deferred := x.pcl.deferred ++ [w] } }.updQueue

/-- WALL_NOP (R146). -/
def execWallNop (d : DieId) (s : State) : Result := onDie s d fun c x => x.wallHead c 0

/-- WALL_STATUS_QUERY (R148). -/
def execWallStatusQuery (d : DieId) (s : State) : Result := onDie s d fun c x => x.wallHead c 2

/-- WALL_ADDR_ASSIGN (R147). -/
def execWallAddrAssign (d : DieId) (s : State) : Result := onDie s d fun c x => x.wallHead c 3

/-- WALL_ROLE_SET (R147). -/
def execWallRoleSet (d : DieId) (s : State) : Result := onDie s d fun c x => x.wallHead c 4

/-- WALL_LATENCY_SET (R147). -/
def execWallLatencySet (d : DieId) (s : State) : Result := onDie s d fun c x => x.wallHead c 5

/-- A parcel that has crossed the stitch is accepted by this die's rules, by TYPE (R10, R13, R168). -/
def Die.onFar (x : Die) (p : List Byte) : Die :=
  match pType p with
  | 1 => x.onVideo p true
  | 2 => x.onCtrl p true
  | 3 => x.onAck p true
  | 4 => x.timeFar p
  | 5 => x.onStat p true
  | _ => x.onUnknown p true

/-- Frames that deferred commands wait for: applied in queue order at the start of frame `frame`, a repeat being none; a command
whose order on the same field is overwritten by a later one of the same start is SUPERSEDED, unless the wall does not own the
field (R149, R151). -/
def Die.applyDeferred (x : Die) (c : Ctx) (frame : Option Nat) : Die :=
  let due (w : WallCmd) : Bool :=
    natAt w.bytes 1 1 = 1 || (match frame with | some f => decide (natAt w.bytes 2 6 ≤ f) | none => false)
  let now := x.pcl.deferred.filter due
  let x := { x with pcl := { x.pcl with deferred := x.pcl.deferred.filter fun w => !due w } }
  let fieldOf (w : WallCmd) : Option Nat := if natAt w.bytes 0 1 = 1 then some (natAt w.bytes 8 1) else none
  let rec go : List WallCmd → Die → Die
    | [], x => x
    | w :: t, x =>
      let x := x.applyWall c w
      let late := match fieldOf w with
        | some f => x.owner f != 1 && t.any (fun v => fieldOf v == some f)
        | none => false
      go t (if late then x.superseded ((fieldOf w).getD 0) 1 1 w.seq
        else x)
  (go now x).updQueue

end Sys2Proof.Machine
end

