-- ==== Sys2Proof/Machine/Stitch.lean ====
section
/-! DEFINITION. The stitch: its messages, states and hold interval (chapter 09), and REFCLK loss with what it means for the
stitch (R74, R75, R78). A message leaves as an output of the step that sends it, and arrives as the operand of a step of the
other die. -/

namespace Sys2Proof.Machine

/-- REFCLK_LOST (R74, R75, R78). Die E follows die W's CCLK while the stitch is UP; with the stitch not UP, it stays DOWN, a training
under way ends without an event (DEDUCED, assumption 53), and training is barred until both dies have locked to REFCLK again. -/
def execRefclkLost (d : DieId) (s : State) : Result :=
  onDie s d fun _ x =>
    if !x.on F.refclkOk then x
    else
      let up := x.get F.stiState = 2
      let x := ((x.flag F.refclkOk false).flag F.cclkLock false).flag F.holdover true
      let x : Die := { x with
        clk := { x.clk with follow := x.id == .E && up, slewing := false }
        sti := { x.sti with barred := !up, good := if up then x.sti.good else 0 } }
      let x := (if up then x else x.put F.stiState 0).raise 0x10
      if x.power = .booting then x else (x.flag F.silRefclk true).causeCame

/-- Whether this die is the frame leader (R169): its own port carries the copy of the sync with the lower MDIST; die W on a
tie. A copy not renewed for 3.000 ms counts as none. -/
def Die.leads (x : Die) : Bool :=
  let own := if x.recent x.acd.ownAt then x.acd.ownDist.toNat else 0xFF
  let far := if x.recent x.acd.farAt then x.acd.farDist.toNat else 0xFF
  own < far || (own = far && x.id == .W)

/-- Whether the stitch is UP. -/
def Die.stitchUp (x : Die) : Bool := x.get F.stiState == 2

/-- Go to DOWN from UP (R171, R174, R78): a cut-off die, the one whose own port knows no hop count while the other's does, runs
its hold interval, which a short UP does not restart. PARCEL messages that have not crossed are lost; a start that was
announced stands (collisions of chapter 09). -/
def Die.stitchFalls (x : Die) : Die :=
  let cut := x.acd.ownA == 0xFF && x.acd.ownB == 0xFF && (x.acd.farA != 0xFF || x.acd.farB != 0xFF)
  let restart := (!x.sti.holdRuns && !x.sti.holdExpired) || x.sti.upAt + secCclk ≤ x.cclk
  let again := cut && !restart && x.sti.holdExpired
  let x := ((x.put F.stiState 0).flag F.locked false).flag F.peerUnknown true
  let lost := (x.sti.crossing.filter (x.cclk < ·)).length
  let x := ((x.flag F.cutOff cut).bump F.stiDownCount).bump F.stiFwdLost lost
  let x : Die := { x with
    sti := { x.sti with
      good := 0, failRun := 0, lockRun := 0, peer := none
      holdRuns := restart || x.sti.holdRuns, holdExpired := x.sti.holdExpired && !restart
      barred := x.sti.barred || x.on F.holdover, crossing := [], holdPeriod := x.tmg.period }
    clk := { x.clk with follow := false }
    acd := { x.acd with peerClaims := false } }
  let x := x.raise 0xE0
  if again then
    let x := x.raise 0xE3
    if x.power = .drydown then x else (x.flag F.silStitch true).causeCame
  else x

/-- The stitch is UP (R171, R174, R175): the dies exchange LOCK, with the newest frame settled and the one still pending, and TIME;
the causes of R174 clear where an automatic exit is allowed. -/
def Die.stitchRises (x : Die) (latency : Nat) : Die :=
  let x := ((x.put F.stiState 2).put F.stiLatency latency).flag F.cutOff false
  let x : Die := { x with sti := { x.sti with upAt := x.cclk, failRun := 0 } }
  let x := (x.raise 0xE1).joinStart
  let x := (if x.autoExits then x.flag F.silStitch false else x).idleClear
  let settled := (bufNumbers.filter fun b => (x.buf b).settled).filterMap fun b => (x.buf b).frame
  let x := match settled.max? with
    | some n => x.sendLock ⟨n, none, true⟩
    | none => x
  let x := match (x.buf x.tmg.pending).frame with
    | some n => x.sendLock ⟨n, none, false⟩
    | none => x
  x.sendTime none

/-- Take a stitch message of class `cls` with payload `pay` (R166, R171, R230, R234): checked by CVU-T, then alive-tested. A message
whose header has a reserved CLASS, or is not that of this class and payload, is discarded and counted though it passes. The
fourth failing message in a row takes the stitch from UP to DOWN (DEDUCED, assumption 44). -/
def Die.stitchTake (x : Die) (cls : Nat) (pay : List Byte) (h : StiHead) : Bool × Die :=
  if !h.passes (cvuSel x 1) pay then
    let x := (x.bump F.stiCheckFail).bump (F.cvuFail 1)
    let x := if cls = 3 then x.bump F.stiFwdLost else x
    let n := x.sti.failRun + 1
    let x : Die := { x with sti := { x.sti with
      failRun := n, good := if x.get F.stiState = 1 then 0 else x.sti.good } }
    (false, if x.stitchUp && 4 ≤ n then x.stitchFalls else x)
  else
    let x := x.bump (F.cvuPass 1)
    let x : Die := { x with sti := { x.sti with failRun := 0 } }
    if h.header != stiHeader cls pay then (false, x.bump F.stiCheckFail) else
    match x.alive 1 (.stitch (BitVec.ofNat 4 cls)) h.alive with
    | (.repeated, x) => (false, x.raise 0xE6 cls)
    | (_, x) => (true, x)

/-- A message other than STATUS is of use only while the stitch is UP (R172). -/
def Die.stitchUse (x : Die) (cls : Nat) (pay : List Byte) (h : StiHead) (use : Die → Die) : Die :=
  match x.stitchTake cls pay h with
  | (true, x) => if x.stitchUp then use x else x
  | (false, x) => x

/-- A training attempt may start (R78, R171): both dies past BOOTING, and neither waiting to lock to REFCLK. -/
def Die.mayTrain (x : Die) (c : Ctx) : Bool :=
  x.get F.stiState == 0 && x.power != .booting && c.peer != .booting && !x.sti.barred && !c.barred

/-- Start a training attempt. -/
def Die.stitchTrain (x : Die) : Die := { x.put F.stiState 1 with sti := { x.sti with good := 0, failRun := 0 } }

/-- Whether neither die has sent anything for 100 ms but the TIME parcels it originates: this die's part (R326). -/
def Die.quietHere (x : Die) : Bool :=
  match x.pcl.lastSent with
  | some t => t + 100 * msCclk ≤ x.cclk
  | none => true

/-- QUIET for the module: this die's part, and the other's as it reports it; while the stitch is not UP, this die's alone. -/
def Die.quiet (x : Die) : Bool :=
  x.quietHere && (match x.sti.peer with | some p => p.quiet | none => true)

/-- STITCH_STATUS_SEND (R167, R171, R326, R329): in TRAIN and UP. -/
def execStitchStatusSend (d : DieId) (s : State) : Result :=
  onDie s d fun _ x =>
    if x.get F.stiState = 0 then x
    else
      let m : StiStatus := {
        power := BitVec.ofNat 4 x.power.code, join := BitVec.ofNat 3 (x.get F.join)
        lanes := BitVec.ofNat 4 (x.get F.traffic), woke := x.sti.woke
        refRestored := x.on F.refclkOk && !x.on F.holdover, quiet := x.quietHere }
      let (h, x) := x.stiSend 4 m.bytes
      { x with sti := { x.sti with woke := false } }.emit (.stiStatus h m)

/-- STITCH_TIME_SEND (R134, R167): a die in SILLAGE-DEEP sends none (R327). -/
def execStitchTimeSend (d : DieId) (s : State) : Result :=
  onDie s d fun _ x => if x.power = .deep then x else x.sendTime none

/-- STITCH_LOCK_RECEIVE (R169). The start count stands as sent: both dies count CCLK from the die reset that they have together, so
the latency of R170 leaves nothing to correct in it (DEDUCED, assumption 44). -/
def execStitchLockReceive (d : DieId) (h : StiHead) (m : StiLock) (s : State) : Result :=
  onDie s d fun _ x => x.stitchUse 1 m.bytes h fun x =>
    match m.start with
    | some _ => { x with sti := { x.sti with start := some m } }
    | none =>
      if m.ready then { x with sti := { x.sti with peerSettled := some (max m.frame (x.sti.peerSettled.getD 0)) } } else x

/-- STITCH_TIME_RECEIVE (R134, R136, R167). -/
def execStitchTimeReceive (d : DieId) (h : StiHead) (t : StiTimeIn) (s : State) : Result :=
  onDie s d fun _ x => x.stitchUse 2 t.msg.bytes h fun x =>
    let m := t.msg
    let x := if m.port = x.id then x else { x with acd := { x.acd with farA := m.hopsA, farB := m.hopsB } }.updHops
    match m.sync with
    | some r => x.onRelay r t.sub.toNat
    | none => x

/-- A parcel that the other die has received: alive-tested, accepted by this die's rules, and queued for this die's port (R10,
R11, R119, R168). -/
def Die.takeCrossed (x : Die) (p : List Byte) : Die :=
  match x.aliveParcel p true with
  | (true, x) => if x.forwards then (x.onFar p).pushFwd p else x
  | (false, x) => x

/-- A parcel that the other die originates for this die's port (R117, R119, R120). Its DEADLINE holds for this die too (R130). -/
def Die.takeOriginated (x : Die) (auth : Bool) (p : List Byte) : Die :=
  if pType p = 4 then
    let x := x.queueTime p
    if timeKind p = 4 then x.onDeadline (payload p) else x
  else if pType p = 5 then x.queueStat false ⟨p, false⟩
  else x.queueLocal ⟨p, auth⟩

/-- STITCH_PARCEL_RECEIVE (R168). -/
def execStitchParcelReceive (d : DieId) (h : StiHead) (m : StiParcel) (s : State) : Result :=
  onDie s d fun _ x => x.stitchUse 3 m.bytes h fun x =>
    match m.kind with
    | .received => x.takeCrossed m.bytes
    | .originated auth => x.takeOriginated auth m.bytes

/-- STITCH_STATUS_RECEIVE (R171, R175, R329). `peerGood` says whether the other die too has had 16 good STATUS messages in a row,
and `latency` is the latency measured (DEDUCED, assumption 44). -/
def execStitchStatusReceive (d : DieId) (h : StiHead) (m : StiStatus) (peerGood : Bool) (latency : Byte) (s : State) :
    Result :=
  onDie s d fun c x =>
    match x.stitchTake 4 m.bytes h with
    | (false, x) => x
    | (true, x) =>
      let x := if x.mayTrain c then x.stitchTrain else x
      let x : Die := { x with sti := { x.sti with peer := some m, good := min 16 (x.sti.good + 1) } }
      let x := if x.get F.stiState = 1 && x.sti.good = 16 && peerGood && !x.sti.barred && !c.barred then x.stitchRises latency.toNat else x
      if x.stitchUp then
        let x := x.flag F.peerUnknown false
        if m.woke then x.wake 3 else x
      else x

/-- STITCH_BLOTTER_RECEIVE (R341). -/
def execStitchBlotterReceive (d : DieId) (h : StiHead) (m : StiBlotter) (s : State) : Result :=
  onDie s d fun _ x => x.stitchUse 5 m.bytes h fun x =>
    ((x.put F.peerMismatch m.mismatch.toNat).put F.peerFrame m.frame).flag F.peerUnknown false

/-- STITCH_TRAIN_START (R171). -/
def execStitchTrainStart (d : DieId) (s : State) : Result :=
  onDie s d fun c x => if x.mayTrain c then x.stitchTrain else x

/-- STITCH_TRAIN_FAIL (R171): at most one event per second. -/
def execStitchTrainFail (d : DieId) (s : State) : Result :=
  onDie s d fun _ x => if x.get F.stiState = 1 then (x.put F.stiState 0).raiseLim secCclk 0 0xE5 else x

/-- STITCH_DOWN (R171). -/
def execStitchDown (d : DieId) (s : State) : Result :=
  onDie s d fun _ x => if x.stitchUp then x.stitchFalls else x

/-- STITCH_HOLD_EXPIRED (R174): the cut-off die hands off at its next frame end; during DRYDOWN only the event. -/
def execStitchHoldExpired (d : DieId) (s : State) : Result :=
  onDie s d fun _ x =>
    if !x.stitchUp && x.on F.cutOff && x.sti.holdRuns && !x.sti.holdExpired then
      let x : Die := { x with sti := { x.sti with holdRuns := false, holdExpired := true } }
      let x := x.raise 0xE3
      if x.power = .drydown then x else (x.flag F.silStitch true).causeCame
    else x

/-- PEER_STATE_CHANGE (R171): the other die leaves BOOTING, and both dies start a training attempt at once; while it is in
BOOTING the stitch is DOWN. -/
def execPeerStateChange (d : DieId) (s : State) : Result :=
  onDie s d fun c x =>
    let booted := c.peer != .booting
    let new := booted && !x.sti.peerBooted
    let x : Die := { x with sti := { x.sti with peerBooted := booted } }
    if !booted then (if x.stitchUp then x.stitchFalls else x.put F.stiState 0)
    else if new && x.mayTrain c then x.stitchTrain
    else x

end Sys2Proof.Machine
end

