-- ==== Sys2Proof/Machine/HostIf.lean ====
section
/-! DEFINITION. The host interface as transport: polling, command fetch, the rings' space, the link, power management of the
function, and the frame in which every host command executes (chapter 10). -/

namespace Sys2Proof.Machine

/-- Whether a DMA_ARM with action ABORT waits for its channel, and holds the ring (R187, R202). -/
def Die.aborting (x : Die) : Bool := x.channels.toList.any (·.abort.isSome)

/-- Whether the command ring may go on to its head: nothing holds it, and a completion can be written (R187, R188, R191). -/
def Die.ringFree (x : Die) : Bool :=
  x.hif.wait.isNone && x.hif.fence.isNone && !x.aborting && x.hif.held.isEmpty && x.cmpSpace && !x.hif.logging && !x.hif.d3hot

/-- The ring stops at its head where the completion ring is full (R191). -/
def Die.stallAtHead (x : Die) : Die :=
  if !x.hif.fetched.isEmpty && x.hif.wait.isNone && x.hif.fence.isNone && !x.aborting && !x.hif.logging && !x.cmpSpace then
    x.stall
  else x

/-- A command entry's fields that its completion carries (R184, R189). -/
def cmdOf (f : Fetched) : Cmd :=
  { opcode := f.bytes.getD 0 0, irq := bitAt (natAt f.bytes 1 1) 0, tag := bytesAt f.bytes 4 4, index := f.index }

/-- Take the head off the fetched commands. -/
def Die.popHead (x : Die) : Die := { x with hif := { x.hif with fetched := x.hif.fetched.tail } }

/-- Entries at the head that CVU-H or CVU_REQ refuses complete with CHECK_FAIL, and are not executed (R185). -/
def Die.flushBad : Nat → Die → Die
  | 0, x => x
  | n + 1, x =>
    match x.hif.fetched with
    | f :: _ =>
      if f.bad && x.ringFree then
        Die.flushBad n ((x.popHead.raise 0x56 f.index.toNat).complete (cmdOf f) 0x09)
      else x
    | [] => x

/-- Entries that are refused leave the head of the ring. -/
def Die.flush (x : Die) : Die := x.flushBad x.hif.fetched.length

/-- Entries in one ring read: min(MRRS, 1024) / 64 (R176, R198). -/
def Die.fetchMax (x : Die) : Nat := x.maxRead / 64

/-- Command ring entries. -/
def Die.cmdSize (x : Die) : Nat := ringSize (x.get F.cmdLog2)

/-- Address of the ring slot at the working head. -/
def Die.fetchAddr (x : Die) : Nat := x.base64 0x2018 + 64 * (x.get F.hifCmdHead % x.cmdSize)

/-- Start the next command read, if there is work, room among the 64 entries that may wait, and none outstanding (R183, R187). A
failed one is repeated at the next poll (R194). -/
def Die.fetchMore (x : Die) : Die :=
  let head := x.get F.hifCmdHead
  let avail := (x.hif.tail - BitVec.ofNat 16 head).toNat
  let n := min (min avail x.fetchMax) (min (x.cmdSize - head % x.cmdSize) (64 - x.hif.fetched.length))
  if x.hif.fetching = 0 && n != 0 && x.on F.hifEnable && !x.on F.fetchStall && !x.hif.readHeld && !x.hif.d3hot then
    { x with hif := { x.hif with fetching := n } }.emit (.hostRead x.fetchAddr (64 * n))
  else x

/-- A WAIT_EVENT of `kind`, and of `sel` where its kind has one, is released: it completes in this CCLK (R187). -/
def Die.release (x : Die) (kind sel : Nat) : Die :=
  match x.hif.wait with
  | some w =>
    if w.kind = kind && w.sel = sel then
      (({ x with hif := { x.hif with wait := none } }.flag F.hifWaiting false).complete w.cmd 0x00).flush.fetchMore
    else x
  | none => x

/-- Polling stops after three failed reads in a row (R194). -/
def Die.readFailed (x : Die) (addr fails : Nat) : Die :=
  let x := x.raise 0x53 (addr % 2 ^ 32)
  if 3 ≤ fails then (x.flag F.fetchStall true).flag F.hifRunning false else x

/-- DOORBELL_POLL (R182, R193, R194, R196). -/
def execDoorbellPoll (d : DieId) (s : State) : Result :=
  onDie s d fun _ x =>
    if x.on F.hifRunning && x.on F.hifLinkUp && !x.hif.polling && !x.hif.d3hot then
      ({ x with hif := { x.hif with polling := true, fast := x.hif.fast - 1 } }.bump F.hifPolls).emit
        (.hostRead (x.base64 0x2008) 64)
    else x

/-- Completions and events that wait are written as far as the rings have space; EVENTS_LOST comes first in a ring whose space
returns, and after a backlog (R191, R192, R195). In D3hot they wait (R196). -/
def Die.drainRings (x : Die) : Die :=
  if x.hif.d3hot then x else
  let x := x.writeHeld x.hif.held.length
  let x : Die := if x.hif.held.isEmpty && x.cmpSpace then
      { x with hif := { x.hif with stalled := false } }.flag F.cmpFull false
    else x
  let x := x.writeBacklog x.hif.backlog.length
  if x.hif.backlog.isEmpty && x.evtSpace then (x.flag F.evtFull false).eventsLost else x

/-- The indices of a doorbell block reach the die (R180, R182, R183). -/
def Die.takeDoorbell (x : Die) (b : List Byte) : Die :=
  let head := BitVec.ofNat 16 (x.get F.hifCmdHead)
  let tail := BitVec.ofNat 16 (natAt b 0 2)
  let past := x.cmdSize < (tail - head).toNat
  let freed :=
    ((!x.hif.held.isEmpty || x.on F.cmpFull) && x.hif.cmpHead != BitVec.ofNat 16 (natAt b 4 2)) ||
      ((x.on F.evtFull || !x.hif.backlog.isEmpty) && x.hif.evtHead != BitVec.ofNat 16 (natAt b 8 2))
  let work := tail != head || freed
  let x : Die := { x with hif := { x.hif with
    cmpHead := BitVec.ofNat 16 (natAt b 4 2), evtHead := BitVec.ofNat 16 (natAt b 8 2), readHeld := false
    tail := if past then head + BitVec.ofNat 16 x.cmdSize else tail
    fast := if work && x.power != .deep then 16 else x.hif.fast, sbDue := x.hif.sbDue || work } }
  let x := if past then (x.bump F.hifOverrun).raise 0x50 tail.toNat else x
  x.drainRings.flush.fetchMore.stallAtHead

/-- DOORBELL_READ_DONE (R182, R183, R191, R192, R194). -/
def execDoorbellReadDone (d : DieId) (r : Option (List Byte)) (s : State) : Result :=
  onDie s d fun _ x =>
    if !x.hif.polling then x
    else match r with
      | none =>
        let n := x.hif.fails + 1
        { x with hif := { x.hif with polling := false, fails := n } }.readFailed (x.base64 0x2008) n
      | some b => { x with hif := { x.hif with polling := false, fails := 0 } }.takeDoorbell b

/-- CVU-H on an entry (R185, R233): whether it is refused (DEDUCED, assumption 29). -/
def Die.checkEntry (x : Die) (b : List Byte) : Bool × Die :=
  if bitAt (natAt b 1 1) 1 then
    if bytesAt b 60 4 == cvuField (cvuSel x 5) 4 (b.take 60) then
      match (x.bump (F.cvuPass 5)).alive 5 .host (BitVec.ofNat 16 (natAt b 2 2)) with
      | (.repeated, x) => (true, x)
      | (_, x) => (false, x)
    else (true, x.bump (F.cvuFail 5))
  else (x.on F.cvuReq, x)

/-- Take fetched entries in order (R183). -/
def Die.takeEntries : List (List Byte) → Die → Die
  | [], x => x
  | b :: t, x =>
    let (bad, x) := x.checkEntry b
    let head := x.get F.hifCmdHead
    let x : Die := { x with hif := { x.hif with fetched := x.hif.fetched ++ [⟨BitVec.ofNat 16 head, b, bad⟩] } }
    Die.takeEntries t (x.put F.hifCmdHead (head + 1))

/-- COMMAND_FETCH_DONE (R183, R185, R194). -/
def execCommandFetchDone (d : DieId) (r : Option (List (List Byte))) (s : State) : Result :=
  onDie s d fun _ x =>
    let n := x.hif.fetching
    if n = 0 then x
    else
      let y : Die := { x with hif := { x.hif with fetching := 0 } }
      match r with
      | none =>
        let k := x.hif.ringFails + 1
        { y with hif := { y.hif with ringFails := k, readHeld := true } }.readFailed x.fetchAddr k
      | some es =>
        let y : Die := { y with hif := { y.hif with ringFails := 0 } }
        (Die.takeEntries (es.take n) y).flush.fetchMore.stallAtHead

/-- Whether bytes 8–59 of an entry outside `used` (pairs of first byte and count) are 0, and FLAGS, ALIVE and CHECK keep R184. -/
def entryOk (b : List Byte) (used : List (Nat × Nat)) : Bool :=
  let fl := natAt b 1 1
  let free (i : Nat) : Bool := !used.any fun u => u.1 ≤ i && i < u.1 + u.2
  b.length == 64 && fl < 4 && (bitAt fl 1 || (natAt b 2 2 == 0 && natAt b 60 4 == 0)) &&
    (List.range 52).all fun i => !free (8 + i) || natAt b (8 + i) 1 == 0

/-- How a command's effect ends: its completion is written now, or is left to an engine or a wait. -/
inductive Ending where
  | now (status detail : Nat)
  | later
deriving DecidableEq, Repr

/-- Whether a command is refused in the die's power state (R193). `needs` says which block it uses (DEDUCED,
assumption 29; DEDUCED, assumption 39). -/
def Die.stateRefuses (x : Die) (inDrydown needs stopped : Bool) : Bool :=
  match x.power with
  | .drydown => !inDrydown
  | .deep => needs
  | .relay => stopped
  | _ => false

/-- The frame of a host command: the head of the fetched commands, if it is this command by `is`, executes in ring order (R187).
`used` are its argument bytes, `ok` whether they are in range, `inDrydown` whether DRYDOWN executes it, `needs` whether it needs
what SILLAGE-DEEP stops, `stopped` whether SILLAGE-RELAY refuses it (R193) (DEDUCED, assumption 29). -/
def Die.hostCmd (x : Die) (is : List Byte → Bool) (inDrydown : Bool) (needs stopped : List Byte → Bool)
    (used : List Byte → List (Nat × Nat)) (ok : Die → List Byte → Bool) (run : Cmd → List Byte → Die → Ending × Die) : Die :=
  match x.hif.fetched with
  | [] => x
  | f :: _ =>
    let b := f.bytes
    if !is b || f.bad then x
    else if !x.ringFree then x.stallAtHead
    else
      let c := cmdOf f
      let x := x.popHead
      let x :=
        if x.stateRefuses inDrydown (needs b) (stopped b) then x.complete c 0x0B
        else if !entryOk b (used b) || !ok x b then x.complete c 0x04
        else match run c b x with
          | (.now st det, x) => x.complete c st det
          | (.later, x) => x
      x.flush.fetchMore

/-- Reset registers of offsets `lo … hi - 1` other than those kept. -/
def Die.resetRange (x : Die) (lo hi : Nat) (keep : List Nat) : Die :=
  { x with regs := x.regs.filter fun p => p.1 < lo || hi ≤ p.1 || keep.contains p.1 }

/-- Write HIF_CTRL (R194, R195, R197). A 0-to-1 write of ENABLE restarts the ring indices and empties the CVU-H key; after a link
loss HOST_LINK_UP comes first, then the backlog, then EVENTS_LOST. A write of 0 stops fetching after the command at the head, which
is the one that holds the ring where there is one (DEDUCED, assumption 29). -/
def Die.writeHifCtrl (x : Die) (v : Word) (mask : Word := 0xFFFFFFFF) : Die :=
  let was := x.on F.hifEnable
  let x := x.store 0x2000 v mask
  let x := if mask.toNat % 2 = 1 then
      { x with hif := { x.hif with fails := 0, ringFails := 0, readHeld := false } }.flag F.fetchStall false
    else x
  if x.on F.hifEnable then
    let x := x.flag F.hifRunning true
    if was then x
    else
      let x : Die := { x with
        hif := { x.hif with
          cmpTail := 0, cmpHead := 0, evtTail := 0, evtHead := 0, tail := 0, polling := false, fetching := 0, fast := 0
          fetched := [], logging := false, layersOff := false, stalled := false }
        pcl := { x.pcl with rxAlive := x.pcl.rxAlive.filter fun p => p.1 != AliveKey.host } }
      let x := ((x.put F.hifCmdHead 0).flag F.cmpFull false).flag F.evtFull false
      let first : List Event := if x.hif.linkLost && !x.masked 0x55 then [⟨0x55, x.ns % 2 ^ 48, 0⟩] else []
      let x := if x.hif.linkLost then x.noteEvent 0x55 0 else x
      { x with hif := { x.hif with linkLost := false, backlog := first ++ x.hif.backlog } }.drainRings
  else
    let x := x.flag F.hifRunning false
    let busy := x.hif.wait.isSome || x.hif.fence.isSome || x.aborting
    if was then
      { x with hif := { x.hif with fetched := x.hif.fetched.take (if busy then 0 else 1), polling := false, fetching := 0 } }
    else x

/-- HIF_ENABLE (R195, R197): the write `v` with ENABLE at 1. -/
def execHifEnable (d : DieId) (v : Word) (s : State) : Result :=
  onDie s d fun _ x => if x.barOpen then x.writeHifCtrl (v ||| 1) else x

/-- HIF_DISABLE (R197): the write `v` with ENABLE at 0. -/
def execHifDisable (d : DieId) (v : Word) (s : State) : Result :=
  onDie s d fun _ x => if x.barOpen then x.writeHifCtrl (v &&& ~~~1) else x

/-- Write a base, size, poll or IRQ register: stored only while ENABLE is 0 (R197). -/
def Die.writeHifCfg (x : Die) (off : Nat) (v : Word) (mask : Word := 0xFFFFFFFF) : Die :=
  if x.keeps off v mask then x
  else if x.on F.hifEnable then x.raise 0x57 (refusedDetail off ((x.reg off &&& ~~~mask) ||| (v &&& mask))) else x.store off v mask

/-- Whether `off` is a register that R197 guards. -/
def isHifCfg (off : Nat) : Bool := 0x2008 ≤ off && off ≤ 0x2038 && off % 4 == 0

/-- HIF_CFG_WRITE (R197). -/
def execHifCfgWrite (d : DieId) (off : BitVec 16) (v : Word) (s : State) : Result :=
  onDie s d fun _ x => if x.barOpen && isHifCfg off.toNat then x.writeHifCfg off.toNat v else x

/-- IRQ_HOLDOFF_EXPIRY (R179): occurrences merged into the vector are sent as one message, in D3hot at the return to D0 (R196). -/
def execIrqHoldoffExpiry (d : DieId) (v : Fin 32) (s : State) : Result :=
  onDie s d fun _ x =>
    match look x.hif.holdoff v.val with
    | some merged =>
      let y : Die := { x with hif := { x.hif with holdoff := x.hif.holdoff.filter fun p => p.1 != v.val } }
      if !merged then y else if y.hif.d3hot then y.vector v.val else y.sendVector v.val
    | none => x

/-- What configuration space shows of R176 and R396, beside the settings that the host programs: the identity values, the variant's
Subsystem ID (R395), Max_Payload_Size Supported and the Completion Timeout Ranges as their codes, Interrupt Pin, the requests that
may be outstanding, 8-bit tags, No_Soft_Reset, the MSI-X table size less 1 with the BAR0 offsets of table and pending bits, and the
features that are not supported. -/
structure PcieProfile where
  vendorId      : Nat
  deviceId      : Nat
  subVendorId   : Nat
  subsystemId   : Nat
  classCode     : Nat
  outstanding   : Nat
  mpsSupported  : Nat
  timeoutRanges : Nat
  interruptPin  : Nat
  extendedTag   : Bool
  noSoftReset   : Bool
  tableSize     : Nat
  tableOffset   : Nat
  pbaOffset     : Nat
  aer           : Bool
  msi           : Bool
  ats           : Bool
  aspm          : Bool
  pme           : Bool
  expansionRom  : Bool
deriving DecidableEq, Repr

/-- The endpoint's profile (R176, R177, R395, R396). No row of the table reads configuration space (assumption 42). -/
def pcieProfile : PcieProfile :=
  { vendorId := 0x1F8E, deviceId := 0x4816, subVendorId := 0x1F8E, subsystemId := if Config.variantK then 2 else 1
    classCode := 0x048000, outstanding := 64, mpsSupported := 2, timeoutRanges := 3, interruptPin := 0, extendedTag := true, noSoftReset := true, tableSize := 31
    tableOffset := 0x8000, pbaOffset := 0xC000, aer := true, msi := false, ats := false, aspm := false, pme := false
    expansionRom := false }

/-- PCIE_LINK_TRAIN (R176, R368): the settings that the host programs in configuration space come with it. Vectors that were
pending and are no longer masked are sent (R179) (DESIGN CHOICE, assumption 10). -/
def execPcieLinkTrain (d : DieId) (cfg : PcieLink) (s : State) : Result :=
  onDie s d fun _ x => ({ x with hif := { x.hif with link := cfg } }.flag F.hifLinkUp true).sendPending

/-- D3HOT_ENTRY (R196). -/
def execD3hotEntry (d : DieId) (s : State) : Result :=
  onDie s d fun _ x => { x with hif := { x.hif with d3hot := true } }

/-- BAR_ACCESS_SIZE (R177). -/
def execBarAccessSize (d : DieId) (write : Bool) (off : BitVec 16) (v : Word) (s : State) : Result :=
  onDie s d fun _ x => if write then x.raise 0x5A (refusedDetail off.toNat v) else x.emit .barUnsupported

/-- Write HIF_STICKY (R377): ranges clear bit by bit, any 1 of COUNT clears it, and no vector is sent. -/
def Die.writeSticky (x : Die) (v : Word) : Die :=
  let x := x.put F.stickyRanges (x.get F.stickyRanges &&& (65535 - v.toNat % 65536))
  if 65536 ≤ v.toNat then x.put F.stickyCount 0 else x

/-- HIF_STICKY_CLEAR (R377). -/
def execHifStickyClear (d : DieId) (v : Word) (s : State) : Result :=
  onDie s d fun _ x => if x.barOpen then x.writeSticky v else x

end Sys2Proof.Machine
end

