-- ==== Sys2Proof/Machine/Dma.lean ====
section
/-! DEFINITION. The DMA engine: channels, descriptors, triggers and timers (chapter 11), and the loss of the host link (R195,
R212). -/

namespace Sys2Proof.Machine

/-- Channel `k`. -/
def Die.chan (x : Die) (k : Chan) : Channel := x.channels[k]

/-- Replace channel `k`. -/
def Die.setChan (x : Die) (k : Chan) (c : Channel) : Die := { x with channels := x.channels.set k c }

/-- State code of channel `k`: 0 IDLE, 1 ARMED, 2 RUNNING, 3 STOPPING, 4 ABORTING. -/
def Die.chState (x : Die) (k : Chan) : Nat := x.get (F.chState k.val)

/-- The channels in order. -/
def chansAll : List Chan := List.ofFn id

/-- Fields of the options (R202). -/
def Channel.ring (c : Channel) : Bool := c.options.getLsbD 0
def Channel.descScratch (c : Channel) : Bool := c.options.getLsbD 1
def Channel.outward (c : Channel) : Bool := c.options.getLsbD 2
def Channel.ro (c : Channel) : Bool := c.options.getLsbD 3
def Channel.lockstep (c : Channel) : Bool := c.options.getLsbD 4
def Channel.ringSize (c : Channel) : Nat := 2 ^ (bits c.options.toNat 5 3 + 1)
def Channel.trig (c : Channel) : Nat := bits c.options.toNat 8 5

/-- Fields of a descriptor (R200). -/
def dSrc (b : List Byte) : Nat := natAt b 0 8
def dDst (b : List Byte) : Nat := natAt b 8 8
def dLen (b : List Byte) : Nat := natAt b 16 3
def dSrcTgt (b : List Byte) : Nat := bits (natAt b 19 1) 0 2
def dDstTgt (b : List Byte) : Nat := bits (natAt b 19 1) 2 2
def dFlag (b : List Byte) (i : Nat) : Bool := bitAt (natAt b 20 1) i
def dNext (b : List Byte) : Nat := natAt b 24 8
def dOwn (b : List Byte) : Bool := bitAt (natAt b 23 1) 7

/-- Detail word D of the DMA events. -/
def Die.dmaDetail (x : Die) (k : Chan) (err : Nat) : Nat :=
  k.val + 256 * err + 65536 * bits (x.chan k).addr 5 16

/-- CH_DESC follows the descriptor's address. -/
def Die.atDesc (x : Die) (k : Chan) (addr : Nat) : Die :=
  (x.setChan k { x.chan k with addr := addr }).put (F.chDesc k.val) addr

/-- Send a trigger to every armed channel whose TRIG names `trig` (R203, R206). Each arrives as a step of its own, DMA_TRIGGER, which
without one that has been sent does nothing (DEDUCED, assumption 45). -/
def Die.sendTriggers (x : Die) (trig : Nat) : Die :=
  chansAll.foldl (fun x k =>
    if x.chState k != 0 && (x.chan k).trig == trig then x.setChan k { x.chan k with due := (x.chan k).due + 1 } else x) x

/-- Whether the channel waits for a host read that has still to go out: of its descriptor, or of the descriptor's data. -/
def Channel.hostFetch (c : Channel) : Bool := c.fetching && !c.descScratch
def Channel.hostData (c : Channel) : Bool :=
  !c.fetching && !c.settling && (match c.desc with | some b => dSrcTgt b == 0 | none => false)

/-- The range that the reads of a descriptor's bytes `i … i + n - 1` cover: rounded outward on a round-outward channel (R207). -/
def Channel.readRange (c : Channel) (b : List Byte) (i n : Nat) : Nat × Nat :=
  let src := dSrc b + i
  if c.outward then (src - src % 32, (src + n + 31) / 32 * 32 - (src - src % 32)) else (src, n)

/-- The host read that channel `k` waits for goes out (R200, R207); in D3hot it waits for D0 (R196, R212). -/
def Die.askHost (x : Die) (k : Chan) : Die :=
  let c := x.chan k
  let y := x.setChan k { c with asked := true }
  if c.asked || x.hif.d3hot || x.chState k = 4 then x
  else if c.hostFetch then y.emit (.hostRead c.addr 32)
  else if c.hostData then
    let b := c.desc.getD []
    let q := c.readRange b 0 (dLen b)
    y.readHost q.1 q.2
  else x

/-- Start the fetch of the current descriptor. -/
def Die.fetchDesc (x : Die) (k : Chan) : Die :=
  (x.setChan k { x.chan k with fetching := true, asked := false, desc := none, half := none, settling := false }).askHost k

/-- A unit starts: its first descriptor is fetched (R203), behind those of the units that overruns have advanced the position
past (R205): those of the overruns while a trigger was pending lie behind the unit of that trigger. -/
def Die.startUnit (x : Die) (k : Chan) : Die :=
  let c := x.chan k
  let x := x.setChan k { c with fresh := true, passing := c.carry, carry := c.skips, skips := 0 }
  (x.put (F.chState k.val) 2).fetchDesc k

/-- A trigger arrives at channel `k` (R204, R205): a channel whose unit still runs holds it, though it is to stop. -/
def Die.trigger (x : Die) (k : Chan) : Die :=
  match x.chState k with
  | 0 => x
  | 1 => x.startUnit k
  | 4 => x
  | _ =>
    if x.on (F.chPending k.val) then
      let x := (x.bump (F.chOverrun k.val)).raiseLim msCclk k.val 0x61 (x.dmaDetail k 0)
      if (x.chan k).lockstep then
        (x.setChan k { x.chan k with skips := (x.chan k).skips + 1 }).bump (F.chSkip k.val)
      else x
    else x.flag (F.chPending k.val) true

/-- DMA_TRIGGER (R204, R205): the arrival of a trigger that a timer or a channel has sent (R203, R206) (DEDUCED, assumption 11). -/
def execDmaTrigger (d : DieId) (ch : Chan) (s : State) : Result :=
  onDie s d fun _ x =>
    let c := x.chan ch
    if c.due = 0 then x else (x.setChan ch { c with due := c.due - 1 }).trigger ch

/-- Whether a descriptor is written back (R208). -/
def Channel.writesBack (c : Channel) (b : List Byte) : Bool := c.ring || dFlag b 3

/-- Write bytes 20 on of the current descriptor, where it is written back (R208). -/
def Die.writeDesc (x : Die) (k : Chan) (w : List Byte) : Die :=
  let c := x.chan k
  if !c.writesBack (c.desc.getD []) then x
  else if c.descScratch then x.writeAs 6 false (c.addr + 20) w
  else x.emit (.hostWrite (c.addr + 20) w false false)

/-- Write a descriptor back (R208): 4 bytes of a Chain descriptor, 8 of a Ring descriptor with OWN cleared. -/
def Die.writeBack (x : Die) (k : Chan) (status err done : Nat) : Die :=
  let c := x.chan k
  x.writeDesc k (bytesAt (c.desc.getD []) 20 1 ++ le 1 status ++ le 1 err ++ [(0 : Byte)] ++
    (if c.ring then le 3 done ++ [0] else []))

/-- Write STATUS with HALF set (R209): the die still owns a Ring descriptor. -/
def Die.writeHalf (x : Die) (k : Chan) : Die :=
  let b := (x.chan k).desc.getD []
  x.writeDesc k (bytesAt b 20 1 ++ le 1 2 ++ le 1 0 ++ bytesAt b 23 1)

/-- The vector of channel `k` (R179, R209). -/
def Die.dmaVector (x : Die) (k : Chan) : Die := x.vector (3 + k.val)

/-- A channel becomes IDLE and forgets its position. -/
def Die.chanIdle (x : Die) (k : Chan) : Die :=
  let c := x.chan k
  ((x.setChan k { Channel.reset with options := c.options, first := c.first, addr := c.addr, emptyRun := c.emptyRun }).put
    (F.chState k.val) 0).flag (F.chPending k.val) false

/-- A descriptor ends with an error (R208): written back, reported, and the channel IDLE (DEDUCED, assumption 45). -/
def Die.descError (x : Die) (k : Chan) (err done : Nat) : Die :=
  let b := (x.chan k).desc.getD []
  let x := x.writeBack k 5 err done
  let x := if dFlag b 1 then x.dmaVector k else x
  ((x.put (F.chLastErr k.val) err).raise 0x60 (x.dmaDetail k err)).chanIdle k

/-- Whether a target's address range holds `n` bytes from `addr` (R199). -/
def tgtHolds (tgt addr n : Nat) : Bool :=
  if tgt = 0 then addr + n ≤ 2 ^ 64 else if tgt = 1 then addr + n ≤ 0x80000000 else addr + n ≤ 0x800000

/-- The error that a descriptor shows before anything moves; 0 for none (R200, R208). -/
def descCheck (c : Channel) (b : List Byte) : Nat :=
  let ring := natAt b 23 1
  let bad :=
    natAt b 19 1 / 16 != 0 || natAt b 20 1 / 64 != 0 || natAt b 21 1 / 8 != 0 ||
      (if c.ring then ring % 128 != 0 || natAt b 27 5 != 0 else ring != 0 || dNext b % 32 != 0)
  if bad then 0x04
  else if dSrcTgt b = 3 || dDstTgt b = 3 || (dSrcTgt b = 0 && dDstTgt b = 0) then 0x02
  else if dLen b = 0 || !tgtHolds (dSrcTgt b) (dSrc b) (dLen b) || !tgtHolds (dDstTgt b) (dDst b) (dLen b) then 0x03
  else if c.outward && dSrc b % 32 != dDst b % 32 then 0x01
  else 0

/-- Whether every access of a range is permitted, access by access where no one region covers it (R207, R218). -/
def Die.rangePermits (x : Die) (m : Nat) (dram narrow : Bool) (addr n kind : Nat) : Bool :=
  x.permits m dram addr n kind || (pieces narrow addr n).all fun p => x.permits m dram p.1 p.2 kind

/-- The words of a DRAM range that are uncorrectable: those known and those met now (R225). -/
def Die.ueWords (x : Die) (addr n : Nat) (met : List Nat) : List Nat :=
  (wordsOf addr n).filter fun w => x.mem.dramUe.contains w || met.contains w

/-- The writes `p` lands on reach the memory (R210). -/
def Die.landWhere (x : Die) (p : Landing → Bool) : Die :=
  let now := x.mem.unlanded.filter p
  let x : Die := { x with mem := { x.mem with unlanded := x.mem.unlanded.filter fun l => !p l } }
  now.foldl (fun (x : Die) l => x.poke l.dram l.addr l.bytes) x

/-- Some of the writes on their way land, oldest first: how many is open (R210) (DEDUCED, assumption 45). -/
def Die.landSome (x : Die) : Die :=
  if x.mem.unlanded.isEmpty then x else
  let n := Config.freeNat x.free % (x.mem.unlanded.length + 1)
  let now := x.mem.unlanded.take n
  let x : Die := { x with free := x.free + 1, mem := { x.mem with unlanded := x.mem.unlanded.drop n } }
  now.foldl (fun (x : Die) l => x.poke l.dram l.addr l.bytes) x

/-- The engine writes `data` to memory at `dst` (R207, R210, R218): each word is on its way until it lands. The ERR found. -/
def Die.sendWrites (x : Die) (k : Chan) (dram : Bool) (dst : Nat) (data : List Byte) : Nat × Die :=
  let narrow := !(x.chan k).outward
  let ok := x.rangePermits 6 dram narrow dst data.length 1
  let g := x.grantWrite 6 dram narrow dst data.length
  let ws := (g.1.flatMap fun p => wordPieces (p.2 / 32 + 2) p.1 p.2).map fun p =>
    (⟨k, dram, p.1, bytesAt data (p.1 - dst) p.2, false⟩ : Landing)
  let x := g.1.foldl (fun (x : Die) p => x.traffic dram (partWords p.1 p.2) (wordCount p.1 p.2)) g.2
  (if ok then 0 else 0x06, { x with mem := { x.mem with unlanded := x.mem.unlanded ++ ws } }.landSome)

/-- Read `n` bytes of a descriptor from byte `i` on (R207, R208): the bytes, the ERR found, and the words found uncorrectable. A
range that is refused has met none. -/
def Die.readSource (x : Die) (k : Chan) (b : List Byte) (i n : Nat) (io : DmaIo) : List Byte × Nat × List Nat × Die :=
  let c := x.chan k
  let (lo, len) := c.readRange b i n
  let cut (bs : List Byte) : List Byte := bytesAt bs (dSrc b + i - lo) n
  if dSrcTgt b = 0 then (io.data.take n, if io.hostAbort then 0x05 else 0, [], x)
  else
    let dram := dSrcTgt b == 1
    let ok := x.rangePermits 6 dram true lo len 0
    let (bs, x) := x.readAs 6 dram lo len
    if !ok then (cut bs, 0x06, [], x)
    else if dram then
      let ue := x.ueWords lo len io.ue
      (cut bs, if ue.isEmpty then 0 else 0x07, ue, (x.noteCe 6 ((wordsIn io.ce (lo, len)).filter (!ue.contains ·))).noteUe 6 ue)
    else
      let sue := ((wordsOf lo len).filter fun w => x.mem.scratchUe.contains w || io.sue.contains w)
      (cut bs, 0, [], x.noteSue sue)

/-- Move `n` bytes of a descriptor from byte `i` on (R207, R208): the ERR found, 0 for none. -/
def Die.moveBytes (x : Die) (k : Chan) (b : List Byte) (i n : Nat) (io : DmaIo) : Nat × Die :=
  let (data, err, ue, x) := x.readSource k b i n io
  let dst := dDst b + i
  if dDstTgt b = 0 then
    let bad (j : Nat) : Bool := ue.contains ((dSrc b + i + j) / 32 * 32)
    let x := x.writeHost dst data ((x.chan k).ro && x.hif.link.roEnable) bad
    (if err = 0 && io.hostAbort then 0x05 else err, x)
  else
    let (e, x) := x.sendWrites k (dDstTgt b == 1) dst data
    (if err = 0 then e else err, x)

/-- Accesses to HOST pause in D3hot (R196, R212): those of the data, and those of the descriptor and its write-back (DEDUCED,
assumption 45). -/
def Die.dmaPaused (x : Die) (k : Chan) : Bool :=
  let c := x.chan k
  x.hif.d3hot && (match c.desc with
    | some b => dSrcTgt b == 0 || dDstTgt b == 0 || (!c.descScratch && c.writesBack b)
    | none => false)

/-- A fill of a layer: the completion of a unit of its channel that started in this frame and ended with SETTLE (R211, R258). -/
def Die.layerFill (x : Die) (k : Chan) : Die :=
  let add (l : Layer) (i : Nat) : Layer := if x.get (F.fillCh i) = k.val then { l with fills := l.fills + 1 } else l
  { x with lyr := { x.lyr with heart := add x.lyr.heart 0, top := add x.lyr.top 1 } }

/-- What follows the end of a run of the channel (R202, R204, R212): it stops, the pending trigger starts the next unit, or it is
armed. -/
def Die.unitOver (x : Die) (k : Chan) : Die :=
  if (x.chan k).draining then (x.raise 0x63 (x.dmaDetail k 0)).chanIdle k
  else if x.chState k = 3 then x.chanIdle k
  else if x.on (F.chPending k.val) then (x.flag (F.chPending k.val) false).startUnit k
  else x.put (F.chState k.val) 1

/-- What follows the end of a unit without error (R203–R205): the count, the triggers, a WAIT_EVENT's release, and the next
state of the channel. `last` ends the chain, with `det` the detail word of its last descriptor. -/
def Die.unitDone (x : Die) (k : Chan) (last settle : Bool) (det : Nat) : Die :=
  let x := x.bump (F.chUnits k.val)
  let x := if settle && (x.chan k).fresh then x.layerFill k else x
  let x := (x.sendTriggers (16 + k.val)).release 4 k.val
  if last then (x.raise 0x63 det).chanIdle k
  else
    let c := x.chan k
    let x := if c.resetDue then
        ((x.setChan k { c with resetDue := false }).atDesc k c.first).put (F.chRingIdx k.val) 0
      else x
    x.unitOver k

/-- Move the channel on to its next descriptor (R201). -/
def Die.nextDesc (x : Die) (k : Chan) (b : List Byte) : Die :=
  let c := x.chan k
  if c.ring then
    let i := (x.get (F.chRingIdx k.val) + 1) % c.ringSize
    (x.atDesc k (c.first + 32 * i)).put (F.chRingIdx k.val) i
  else x.atDesc k (dNext b)

/-- Whether a descriptor ends its chain, and whether it ends its unit (R200, R203). -/
def Channel.endsChain (c : Channel) (b : List Byte) : Bool := dFlag b 4 || (!c.ring && dNext b == 0)
def Channel.endsUnit (c : Channel) (b : List Byte) : Bool := dFlag b 2 || c.endsChain b

/-- A descriptor completes without error (R201, R203, R208, R209). -/
def Die.descComplete (x : Die) (k : Chan) (b : List Byte) : Die :=
  let c := x.chan k
  let det := x.dmaDetail k 0
  let x := x.writeBack k 1 0 (dLen b)
  let x := if dFlag b 1 then x.dmaVector k else x
  let x := x.setChan k { x.chan k with desc := none, half := none, settling := false, failed := none, emptyRun := false }
  let x := if c.ring || !c.endsChain b then x.nextDesc k b else x
  if c.endsUnit b then x.unitDone k (c.endsChain b) (dFlag b 5) det else x.fetchDesc k

/-- A fetched descriptor is taken (R200, R201, R204, R205): one of a unit to skip is passed over, a Ring descriptor with OWN = 0
runs nothing, a faulty one fails, and any other can run: its host reads go out. -/
def Die.takeDesc (x : Die) (k : Chan) (b : List Byte) : Die :=
  let c := x.chan k
  let x := x.setChan k { c with fetching := false, desc := some b }
  if c.ring && !dOwn b then
    let x := x.setChan k { x.chan k with desc := none, emptyRun := true }
    let x := x.bump (F.chEmpty k.val)
    let x := if c.emptyRun then x else x.raise 0x62 (x.dmaDetail k 0)
    x.unitOver k
  else if descCheck c b != 0 then x.descError k (descCheck c b) 0
  else if c.passing != 0 then
    let x := x.setChan k { x.chan k with desc := none, passing := if c.endsUnit b then c.passing - 1 else c.passing }
    let x := if c.endsUnit b then x else x.bump (F.chSkip k.val)
    if c.endsChain b then (x.raise 0x63 (x.dmaDetail k 0)).chanIdle k
    else (x.nextDesc k b).fetchDesc k
  else
    (x.setChan k { x.chan k with asked := false, dramSide := some (c.dramSide.getD false || dSrcTgt b == 1 || dDstTgt b == 1) }).askHost k

/-- The descriptor that a fetch returns, from scratch or as the host has returned it: one in scratch is read under M6's regions
(R216, R218), and a poisoned or refused one is not used (DEDUCED, assumption 45). -/
def Die.fetched (x : Die) (k : Chan) (r : Option (List Byte)) : Option (List Byte) × Die :=
  let c := x.chan k
  if !c.descScratch then (r, x)
  else
    let ok := x.rangePermits 6 false true c.addr 32 0
    let bad := ok && x.mem.scratchUe.contains c.addr
    let (bs, x) := x.readAs 6 false c.addr 32
    (if ok && !bad then some bs else none, if bad then x.scratchUeRaise c.addr else x)

/-- DMA_DESC_FETCH_DONE (R200, R204, R208): `r` is the descriptor in host memory, none for a failed read. -/
def execDmaDescFetchDone (d : DieId) (ch : Chan) (r : Option (List Byte)) (s : State) : Result :=
  onDie s d fun _ x =>
    let c := x.chan ch
    if !c.fetching || x.chState ch = 4 || (c.hostFetch && (!c.asked || x.hif.d3hot)) then x
    else
      match x.fetched ch r with
      | (some b, x) => x.takeDesc ch (bytesAt (b ++ List.replicate 32 0) 0 32)
      | (none, x) => (x.raise 0x65 (x.dmaDetail ch 0)).chanIdle ch

/-- The descriptor that channel `k` runs. -/
def Die.running (x : Die) (k : Chan) : Option (List Byte) :=
  let c := x.chan k
  if (x.chState k = 2 || x.chState k = 3) && !c.fetching && !c.settling && (c.asked || !c.hostData) then c.desc else none

/-- DONE_BYTES of a descriptor that ends with `err` after it moved bytes `i … i + n - 1` (R208): of one that a region refuses it is
open (DEDUCED, assumption 45). -/
def Die.doneBytes (x : Die) (b : List Byte) (err i n : Nat) (io : DmaIo) : Nat × Die :=
  if err = 5 then (i + min n io.data.length, x)
  else if err = 6 then (Config.freeNat x.free % (dLen b + 1), { x with free := x.free + 1 })
  else (i + n, x)

/-- A descriptor has failed: at once, or after its acknowledgements where it has SETTLE set (R208, R211). -/
def Die.descFailed (x : Die) (k : Chan) (b : List Byte) (err done : Nat) : Die :=
  if dFlag b 5 then x.setChan k { x.chan k with settling := true, failed := some (err, done) } else x.descError k err done

/-- The first ⌈LENGTH/2⌉ bytes of a descriptor with IRQ_HALF move (R209): the ERR found. -/
def Die.moveHalf (x : Die) (k : Chan) (b : List Byte) (io : DmaIo) : Nat × Die :=
  let n := (dLen b + 1) / 2
  let (err, x) := x.moveBytes k b 0 n io
  if err != 0 then
    let (done, x) := x.doneBytes b err 0 n io
    (err, x.descFailed k b err done)
  else (0, ((x.setChan k { x.chan k with half := some n }).writeHalf k).dmaVector k)

/-- Whether a descriptor has still to report its half (R209). -/
def Channel.halfDue (c : Channel) (b : List Byte) : Bool := dFlag b 0 && c.half.isNone

/-- DMA_HALF_DONE (R209). -/
def execDmaHalfDone (d : DieId) (ch : Chan) (io : DmaIo) (s : State) : Result :=
  onDie s d fun _ x =>
    match x.running ch with
    | some b => if (x.chan ch).halfDue b && !x.dmaPaused ch then (x.moveHalf ch b io).2 else x
    | none => x

/-- The bytes of a descriptor that have not moved, with what the outside supplies for them. -/
def Die.moveRest (x : Die) (k : Chan) (b : List Byte) (io : DmaIo) : Die :=
  let i := (x.chan k).half.getD 0
  let n := dLen b - i
  let (err, x) := x.moveBytes k b i n io
  if err != 0 then
    let (done, x) := x.doneBytes b err i n io
    x.descFailed k b err done
  else if dFlag b 5 then
    let x := x.setChan k { x.chan k with settling := true }
    if dDstTgt b = 0 then x.emit (.hostRead (dDst b) 0) else x
  else x.descComplete k b

/-- DMA_DESC_DONE (R208–R211): the last write of the descriptor has left the engine. The half is reported first where
DMA_HALF_DONE has not come. -/
def execDmaDescDone (d : DieId) (ch : Chan) (io : DmaIo) (s : State) : Result :=
  onDie s d fun _ x =>
    match x.running ch with
    | some b =>
      if x.dmaPaused ch then x
      else if (x.chan ch).halfDue b then
        match x.moveHalf ch b io with
        | (0, x) => x.moveRest ch b { io with data := io.data.drop ((dLen b + 1) / 2) }
        | (_, x) => x
      else x.moveRest ch b io
    | none => x

/-- DMA_SETTLE_DONE (R211): every write is acknowledged, at DRAM and SCRATCH by the memory, which then holds it, and at HOST by a
zero-length read. -/
def execDmaSettleDone (d : DieId) (ch : Chan) (s : State) : Result :=
  onDie s d fun _ x =>
    let c := x.chan ch
    match c.settling, c.desc with
    | true, some b =>
      if (x.chState ch = 2 || x.chState ch = 3) && !x.dmaPaused ch then
        let x := x.landWhere (·.chan == ch)
        match c.failed with
        | some (err, done) => x.descError ch err done
        | none => x.descComplete ch b
      else x
    | _, _ => x

/-- FREE_TIMER_FIRE (R206): timer 8 + `t`. -/
def execFreeTimerFire (d : DieId) (t : Fin 8) (s : State) : Result :=
  onDie s d fun _ x =>
    if x.on (F.ftEnable t.val) then
      let x := x.bump (F.ftFires t.val)
      let x := if x.on (F.ftOneshot t.val) then x.flag (F.ftEnable t.val) false else x
      (x.sendTriggers (8 + t.val)).release 5 (8 + t.val)
    else x

/-- Lockstep channels at a frame start (R205): the pending trigger is discarded as an overrun, and the position becomes the first
descriptor, after the unit that runs. -/
def Die.lockstepReset (x : Die) : Die :=
  chansAll.foldl (fun x k =>
    let c := x.chan k
    let x := x.setChan k { c with fresh := false }
    if x.chState k != 0 && c.lockstep then
      let x := if x.on (F.chPending k.val) then
          ((x.bump (F.chOverrun k.val)).raiseLim msCclk k.val 0x61 (x.dmaDetail k 0)).flag (F.chPending k.val) false
        else x
      let x := x.setChan k { x.chan k with skips := 0, carry := 0, resetDue := x.chState k != 1 }
      if x.chState k = 1 then (x.atDesc k c.first).put (F.chRingIdx k.val) 0 else x
    else x) x

/-- Channel named by a DMA_ARM command. -/
def chanOf (b : List Byte) : Chan := Fin.ofNat 16 (natAt b 8 1)

/-- Argument bytes of DMA_ARM (R186, R202) (DEDUCED, assumption 45). -/
def dmaArmUsed : List Byte → List (Nat × Nat) := fun _ => [(8, 2), (12, 4), (24, 8)]

/-- The frame of DMA_ARM's three actions. -/
def Die.dmaArm (x : Die) (is : Nat → Bool) (ok : List Byte → Bool) (run : Cmd → List Byte → Die → Ending × Die) : Die :=
  x.hostCmd (fun b => natAt b 0 1 == 0x14 && is (natAt b 9 1)) false (fun _ => false) (fun _ => false) dmaArmUsed
    (fun _ b => natAt b 8 1 < 16 && ok b) run

/-- DMA_ARM with action ARM (R202); an action that does not exist is refused here. -/
def execDmaArm (d : DieId) (s : State) : Result :=
  onDie s d fun _ x =>
    x.dmaArm (fun a => a != 2 && a != 3)
      (fun b =>
        let o := natAt b 12 4
        natAt b 9 1 == 1 && natAt b 24 8 % 32 == 0 && o / 2 ^ 13 == 0 && bits o 8 5 != 16 + natAt b 8 1 &&
          !(bitAt o 4 && bitAt o 0))
      fun _ b x =>
        let k := chanOf b
        if x.chState k != 0 then (.now 0x05 0, x)
        else
          let a := natAt b 24 8
          let x := x.setChan k { Channel.reset with options := BitVec.ofNat 32 (natAt b 12 4), first := a }
          (.now 0x00 0, ((x.atDesc k a).put (F.chRingIdx k.val) 0).put (F.chState k.val) 1)

/-- DMA_ARM with action STOP (R202). -/
def execDmaStop (d : DieId) (s : State) : Result :=
  onDie s d fun _ x =>
    x.dmaArm (· == 2) (fun _ => true) fun _ b x =>
      let k := chanOf b
      let x := x.flag (F.chPending k.val) false
      match x.chState k with
      | 1 => (.now 0x00 0, x.chanIdle k)
      | 2 => (.now 0x00 0, x.put (F.chState k.val) 3)
      | _ => (.now 0x00 0, x)

/-- DMA_ARM with action ABORT (R187, R202): it holds the ring until the channel's last access has returned. A channel without
accesses outstanding is IDLE at once. -/
def execDmaAbort (d : DieId) (s : State) : Result :=
  onDie s d fun _ x =>
    x.dmaArm (· == 3) (fun _ => true) fun c b x =>
      let k := chanOf b
      let x := x.flag (F.chPending k.val) false
      match x.chState k with
      | 0 => (.now 0x00 0, x)
      | 1 => (.now 0x00 0, x.chanIdle k)
      | _ => (.later, (x.setChan k { x.chan k with abort := some c }).put (F.chState k.val) 4)

/-- DMA_ABORT_DONE (R202, R208): the writes of `a.left` bytes of the descriptor had left the engine. -/
def execDmaAbortDone (d : DieId) (ch : Chan) (a : AbortIo) (s : State) : Result :=
  onDie s d fun _ x =>
    if x.chState ch = 4 && !x.dmaPaused ch then
      let c := x.chan ch
      let x := match c.desc with
        | some b =>
          let i := c.half.getD 0
          let n := min (max a.left i) (dLen b)
          let x := if c.settling then x else (x.moveBytes ch b i (n - i) a.io).2
          (x.descError ch 0x08 n).completeOpt c.abort 0x00 n
        | none => (x.chanIdle ch).completeOpt c.abort 0x00 0
      x.flush.fetchMore
    else x

/-- Every channel stops; the event carries the mask of those that were not IDLE (R212). Writes already issued may or may not land. -/
def Die.dmaStopAll (x : Die) : Die :=
  let mask := chansAll.foldl (fun n k => if x.chState k = 0 then n else n + 2 ^ k.val) 0
  let x := if mask = 0 then x else x.raise 0x64 mask
  ({ x with channels := Vector.replicate 16 Channel.reset }.landSome).resetRange 0x2400 0x3000 []

/-- Whether channel `k` has a DRAM side: a descriptor since its arming has named DRAM, or none has been seen yet (DEDUCED,
assumption 45). -/
def Die.dramChan (x : Die) (k : Chan) : Bool := (x.chan k).dramSide.getD true

/-- Whether a channel with a DRAM side has a unit under way (R212). -/
def Die.dmaDramBusy (x : Die) : Bool := chansAll.any fun k => 2 ≤ x.chState k && x.dramChan k

/-- On the way to SILLAGE-DEEP (R212): a channel with a DRAM side whose unit runs ends with it, and one that waits for a trigger is
IDLE at once. -/
def Die.dmaDeep (x : Die) : Die :=
  chansAll.foldl (fun x k =>
    if x.chState k = 0 || x.chState k = 4 || !x.dramChan k then x
    else if x.chState k = 1 then (x.raise 0x63 (x.dmaDetail k 0)).chanIdle k
    else x.setChan k { x.chan k with draining := true }) x

/-- An engine command whose link has gone down (R195). -/
def Job.orphan (j : Job) : Job := { j with live := false }

/-- D0_RETURN (R196): everything resumes; the backlog is written first, and the host reads that DMA has held back go out. -/
def execD0Return (d : DieId) (s : State) : Result :=
  onDie s d fun _ x =>
    if x.hif.d3hot then
      let x : Die := { x with hif := { x.hif with d3hot := false } }
      let x := if x.hif.logging then x else x.drainRings.flush.fetchMore
      chansAll.foldl Die.askHost x
    else x

/-- HOST_LINK_DOWN (R195, R212): commands that have not started and results for the host are discarded, events go to the backlog,
and configuration space with the HIF and DMA registers is reset but for HIF_CMP_SEQ and HIF_STICKY. The on-die part of an engine
command runs on. PERST_L does so too while the link is down. -/
def execHostLinkDown (d : DieId) (cause : LinkDown) (s : State) : Result :=
  onDie s d fun _ x =>
    if !x.on F.hifLinkUp && cause != .perstLow then x
    else
      let x : Die := { x with hif := { x.hif with
        polling := false, fetching := 0, fetched := [], wait := none, fence := none, held := [], vecs := []
        logging := true, linkLost := true, d3hot := false, layersOff := true, stalled := false, sbDue := false
        holdoff := [], msix := [], pba := 0, readHeld := false, link := linkReset
        table := x.hif.table.map Job.orphan, trim := x.hif.trim.map Job.orphan, store := x.hif.store.map Job.orphan,
        wear := x.hif.wear.map Job.orphan, service := x.hif.service.map Job.orphan, scan := x.hif.scan.map Job.orphan,
        panel := x.hif.panel.map Job.orphan } }
      let x : Die := { x with
        clk := { x.clk with cmd := none }
        pcl := { x.pcl with outstanding := x.pcl.outstanding.map fun o => { o with cmd := none } } }
      let x := x.raise 0x54
      let x := x.dmaStopAll
      x.resetRange 0x2000 0x2400 [0x203C, 0x2048]

end Sys2Proof.Machine
end

