-- ==== Sys2Proof/Machine/Wear.lean ====
section
/-! DEFINITION. The correction banks: the fold of the wear gain, the build and the re-target pass (R268–R274); panel ownership
and the ledger's decode (R284, R285); checkpoints (R282); the WEAR registers that are stored under a condition (R281);
DRC_LOAD (R227). -/

namespace Sys2Proof.Machine

/-- The correction bank in use: TABLE_BANK XOR SWAP (R270). -/
def Die.inuse (x : Die) : Nat := (x.get F.tableBank + x.get F.swapBit) % 2

/-- DRAM address of a correction bank (R222). -/
def bankAt (b : Nat) : Nat := 0x04000000 + b * 0x05000000

/-- The 12-bit field `k` of pixel `p` of block `b` in a bank image: 0–5 in the gain plane, 6–11 in the cross plane (R268). -/
def mantissa (img : List Byte) (nb b p k : Nat) : Int :=
  let bit := 72 * p + 12 * (k % 6)
  toSigned 12 (natAt img (576 * b + (if k < 6 then 0 else 576 * nb) + bit / 8) 2 / 2 ^ (bit % 8))

/-- The row of the pixel's matrix that a field belongs to: R, G or B (R268). -/
def fieldRow (k : Nat) : Nat := [0, 1, 2, 0, 1, 2, 0, 0, 1, 1, 2, 2].getD k 0

/-- Whether a field is an offset. -/
def fieldOffset (k : Nat) : Bool := 3 ≤ k && k < 6

/-- The efficiency of colour `c` at a ledger code, from the ageing curves (R274). -/
def Die.efficiency (x : Die) (c code : Nat) : Nat :=
  let a (i : Nat) : Int := natAt x.wear.curves (80 * c + 2 * i) 2
  let e := code / 1024
  (a e + roundDiv ((a (e + 1) - a e) * (code % 1024 : Nat)) 1024).toNat

/-- WEAR_CFG.GMAX and the target of colour `c`. -/
def Die.gmax (x : Die) : Nat := max 0x1000 (x.get F.gmax)
def Die.target (x : Die) (c : Nat) : Nat :=
  if c = 0 then x.get F.targetR else if c = 1 then x.get F.targetG else x.get F.targetB

/-- The targets and GMAX that a build or a pass works to, as it finds them at its start (R272, R273). -/
def Die.goals (x : Die) : List Nat := [x.target 0, x.target 1, x.target 2, x.gmax]

/-- The wear gain of a lamp as a fraction, and whether it is clipped at GMAX, for the targets and GMAX `goal` (R273). -/
def Die.wearGain (x : Die) (goal : List Nat) (l c : Nat) : Nat × Nat × Bool :=
  let eff := x.efficiency c (logCode (ofLe (x.readAs 7 true (ledgerAt l) 6).1))
  let gmax := goal.getD 3 0
  let target := goal.getD c 0
  if eff = 0 || gmax * eff < target * 4096 then (gmax, 4096, true) else (target, eff, false)

/-- Column and line of position `p` of block `b` (R268). -/
def Die.blockPixel (x : Die) (b p : Nat) : Nat × Nat :=
  let wb := (x.width + 7) / 8
  (8 * (b % wb) + p % 8, 8 * (b / wb) + p / 8)

/-- A mantissa scaled to exponent `e'` from exponent `e` by the gain `n / d`. -/
def scaled (m : Int) (e e' n d : Nat) : Int := roundDiv (m * n * 2 ^ e') (d * 2 ^ e)

/-- The exponent of one kind in a block: the largest of 0–31 with every scaled value within ±2047 (R273). -/
def foldExp (vals : List (Int × Nat × Nat)) (e : Nat) : Option Nat :=
  (List.range 32).reverse.find? fun e' => vals.all fun v => (scaled v.1 e e' v.2.1 v.2.2).natAbs ≤ 2047

/-- One block of the folded image (R273): gain record, cross record, exponent word and the lamps clipped. Where no exponent
fits, the spec states no mantissa: `fr` numbers the free values that stand in their place. -/
def Die.foldBlock (x : Die) (goal : List Nat) (img : List Byte) (b fr : Nat) : List Byte × List Byte × List Byte × Nat :=
  let nb := x.nb
  let ew := natAt img (1152 * nb + 4 * b) 4
  let used (p : Nat) : Bool := (x.blockPixel b p).1 < x.width
  let gain (p c : Nat) : Nat × Nat × Bool :=
    let q := x.blockPixel b p
    if used p then x.wearGain goal (x.lampNo q.1 q.2 c) c else (1, 1, false)
  let val (p k : Nat) : Int × Nat × Nat :=
    let g := gain p (fieldRow k)
    ((if used p then mantissa img nb b p k else 0), g.1, g.2.1)
  let all (off : Bool) : List (Int × Nat × Nat) :=
    (List.range 64).flatMap fun p => ((List.range 12).filter fun k => fieldOffset k == off).map fun k => val p k
  let old (off : Bool) : Nat := if off then bits ew 8 5 else bits ew 0 5
  let exp (off : Bool) : Option Nat := foldExp (all off) (old off)
  let newM (p k : Nat) : Nat :=
    let off := fieldOffset k
    match exp off with
    | some e' => let v := val p k; ofSigned 12 (scaled v.1 (old off) e' v.2.1 v.2.2)
    | none => Config.freeNat (fr + 12 * p + k) % 4096
  let plane (base : Nat) : List Byte :=
    le 576 (((List.range 64).flatMap fun p => (List.range 6).map fun k => newM p (base + k) * 2 ^ (72 * p + 12 * k)).sum)
  let e0 := (exp false).getD (Config.freeNat (fr + 768) % 32)
  let e1 := (exp true).getD (Config.freeNat (fr + 769) % 32)
  let clipped := ((List.range 64).filter used).flatMap fun p => (List.range 3).filter fun c => (gain p c).2.2
  (plane 0, plane 6, le 4 (e0 + 256 * e1), clipped.length)

/-- M7 reads the ledger for a fold (R213): refused accesses and uncorrectable words are noted (R219, R225). -/
def Die.ledgerRead (x : Die) : Die :=
  let r := (ledgerAt 0, 18 * x.width * x.height)
  (x.readAs 7 true r.1 r.2).2.noteUe 7 (wordsIn x.mem.dramUe r)

/-- The base map with the fold (R273), the lamps clipped, and the die with the free values used. -/
def Die.foldImage (x : Die) (goal : List Nat) (img : List Byte) : List Byte × Nat × Die :=
  let bs := (List.range x.nb).map fun b => x.foldBlock goal img b (x.free + 1024 * b)
  (bs.flatMap (·.1) ++ bs.flatMap (·.2.1) ++ bs.flatMap (·.2.2.1), (bs.map (·.2.2.2)).sum,
    { x.ledgerRead with free := x.free + 1024 * x.nb })

/-- The map copy that supplies the base map; none while the store is not ready (R358, R362). -/
def Die.mapSource (x : Die) : Option Nat := if x.on F.cstReady then x.pickMap (x.wear.key.getD []) else none

/-- COR_STATUS.BUILDING. -/
def Die.buildFlag (x : Die) : Die := x.flag F.building (x.wear.build || x.wear.pass)

/-- The build of bank INUSE starts (R271), or the base map is absent (R358). Correction runs at unity until the next frame start
after its end. -/
def Die.buildStart (x : Die) : Die :=
  let x := { x with lyr := { x.lyr with mapDue := false } }.urgentRead.flag F.mapOk false
  let x := if x.on F.cstReady then (x.validateMap 0).validateMap 1 else x
  match x.mapSource with
  | some _ => { x with wear := { x.wear with build := true, buildGoal := x.goals } }.buildFlag
  | none => ({ x with wear := { x.wear with build := false } }.raise 0x91).buildFlag

/-- COR_MAP_BUILD_DONE (R271): the bank is written; MAP_OK follows at the next frame start. -/
def execCorMapBuildDone (d : DieId) (s : State) : Result :=
  onDie s d fun _ x =>
    if x.wear.build then
      let x := { x with wear := { x.wear with build := false } }.buildFlag
      match x.mapSource with
      | none => x.raise 0x91
      | some c =>
        let img := x.setBytes (mapBlock c) 0 x.bankBytes
        let (out, _, x) := if x.on F.corFold then x.foldImage x.wear.buildGoal img else (img, 0, x)
        let x := x.writeAs 7 true (bankAt x.inuse) out
        { x with lyr := { x.lyr with mapDue := true } }
    else x

/-- Whether KEY_OK stands: no mismatch on either side (R285). -/
def Die.keyOk (x : Die) : Bool := x.wear.ledgerOk && x.wear.mapKeyOk

/-- A re-target pass starts (R272). -/
def Die.retarget (x : Die) : Die :=
  if x.on F.corFold && x.keyOk && !x.wear.pass && (x.power == .active || x.power == .relay) then
    let x := x.urgentRead
    let x := if x.on F.cstReady then (x.validateMap 0).validateMap 1 else x
    match x.mapSource with
    | some _ => { x with wear := { x.wear with pass := true, goal := x.goals } }.buildFlag
    | none => x.raise 0x93 4
  else x

/-- The hour of the day that starts a re-target pass: a FOLD_HOUR above 23 acts as 23 (R272). -/
def Die.foldHour (x : Die) : Nat := min 23 (x.get F.foldHour)

/-- RETARGET_START (R272): the RTC enters FOLD_HOUR. -/
def execRetargetStart (d : DieId) (s : State) : Result :=
  onDie s d fun c x => if c.mod.rtc.toNat / 3600 % 24 = x.foldHour then x.retarget else x

/-- RETARGET_PASS_DONE (R272): the idle bank is written; SWAP toggles at the next frame start. -/
def execRetargetPassDone (d : DieId) (s : State) : Result :=
  onDie s d fun _ x =>
    if x.wear.pass then
      match x.mapSource with
      | none => x.abortPass 4
      | some c =>
        let (out, n, x) := x.foldImage x.wear.goal (x.setBytes (mapBlock c) 0 x.bankBytes)
        let x := (x.writeAs 7 true (bankAt (1 - x.inuse)) out).put F.headroom (min n 0xFFFF)
        { x with wear := { x.wear with pass := false }, lyr := { x.lyr with swapDue := true, clipped := n } }.buildFlag
    else x

/-- Every byte of a DRAM range reads 0, and its words are free of errors. -/
def Die.clearDram (x : Die) (lo hi : Nat) : Die :=
  { x with mem := { x.mem with
      dram := x.mem.dram.filter fun c => !(lo ≤ c.1 && c.1 < hi)
      dramUe := x.mem.dramUe.filter fun w => !(lo ≤ w && w + 32 ≤ hi) } }

/-- Master `m` writes a DRAM range to 0, where its regions, which are made of 4 KiB units, permit it; each word refused counts (R218,
R219). -/
def Die.clearAs (x : Die) (m lo hi : Nat) : Die :=
  if x.permits m true lo (hi - lo) 1 then (x.clearDram lo hi).traffic true 0 ((hi - lo) / 32)
  else (List.range ((hi - lo) / 4096)).foldl (fun (x : Die) i =>
    let a := lo + 4096 * i
    if x.permits m true a 4096 1 then (x.clearDram a (a + 4096)).traffic true 0 128
    else (x.violation m true a 1).bump F.violCount 127) x

/-- M3 starts the ledger at zero (R213, R285). -/
def Die.zeroLedger (x : Die) : Die := x.clearAs 3 0x0E000000 0x13000000

/-- One ledger part is decoded into DRAM (R285, R359). -/
def Die.decodePart (x : Die) (p : Nat) : Die :=
  if (x.partGroups p).isEmpty then x
  else
    let key := x.wear.key.getD []
    let x := (x.countSet (partBlock p 0) 17).countSet (partBlock p 1) 17
    let x := (x.copyInvalid 2 0 p (x.partBad p 0)).copyInvalid 2 1 p (x.partBad p 1)
    let src := x.pickPart p key
    let x := match src with
      | some _ => x
      | none => x.raise 0xD3 p
    let codes := match src with
      | some c => x.setBytes (partBlock p c) 0 (x.partBytes p)
      | none => List.replicate (x.partBytes p) 0
    (x.partGroups p).foldl (fun x g =>
      let base := g / 24 * x.groupLamps
      x.writeAs 3 true (ledgerAt (g * x.groupLamps))
        ((List.range x.groupLamps).flatMap fun k => le 6 (logDecode (natAt codes (2 * (base + k)) 2)))) x

/-- The key matches the key of the store's records: ledger decode, map build, KEY_OK (R285). A bank built for another panel does not
come into use. -/
def Die.keyMatch (x : Die) : Die :=
  let x : Die := { x with
    wear := { x.wear with ledgerOk := true, mapKeyOk := true }, lyr := { x.lyr with swapDue := false } }
  let x := (x.flag F.keyOk true).put F.mismatch 0
  let x := (List.range 24).foldl Die.decodePart x.urgentRead.zeroLedger
  x.buildStart

/-- WEAR_STATUS.OVERDUE. -/
def Die.overdueFlag (x : Die) : Die := x.flag F.overdue (!x.wear.overdue.isEmpty)

/-- Part `p` is overdue (R282). -/
def Die.addOverdue (x : Die) (p : Nat) : Die :=
  { x with wear := { x.wear with overdue := x.wear.overdue.filter (· != p) ++ [p] } }.overdueFlag

/-- A mismatch (R285): unity correction without folding, and the ledger from zero. A checkpoint that waits is not written, and so
overdue (R282); one under way goes no further than the block at work (DEDUCED, assumption 28). -/
def Die.keyMismatch (x : Die) (why : Nat) : Die :=
  let x := { x with
    wear := { x.wear with ledgerOk := false, mapKeyOk := false, build := false, pass := false }
    lyr := { x.lyr with mapDue := false, swapDue := false } }
  let x := ((x.flag F.keyOk false).flag F.mapOk false).put F.mismatch why
  let x := match x.cst.wait with
    | some p => { x with cst := { x.cst with wait := none } }.addOverdue p
    | none => x
  (x.buildFlag.zeroLedger).raise 0x94 why

/-- The panel's key is known, or known to be unreadable (R285). A key that has not changed leaves what stands; a mismatch that
still stands is reported again (DEDUCED, assumption 24). -/
def Die.takeKey (x : Die) (key : Option (List Byte)) : Die :=
  let old := x.wear.key
  let again := x.wear.readOnce && old == key
  let x := { x with wear := { x.wear with key := key, readOnce := true } }
  if again && x.keyOk then x
  else if again then x.raise 0x94 (x.get F.mismatch)
  else match key with
    | none => x.keyMismatch 2
    | some k =>
      let keys := if x.on F.cstReady then x.storeKeys else []
      if keys.contains k then x.keyMatch
      else x.keyMismatch (if keys.isEmpty then 3 else 1)

/-- What is wrong with an identity record: 0 for nothing, else the detail of PANEL_ID_INVALID (R319). -/
def recordFault (r : IdRead) : Nat :=
  match r with
  | .noAck => 1
  | .held => 4
  | .record b =>
    let n := natAt b 6 2
    if bytesAt b 0 5 != [0x4C, 0x4E, 0x49, 0x44, 0x01] || n < 48 || 256 < n || b.length < n then 2
    else if bytesAt b (n - 4) 4 != cvuField 1 4 (b.take (n - 4)) then 3
    else 0

/-- The key of a good record. -/
def recordKey (r : IdRead) : List Byte :=
  match r with
  | .record b => bytesAt b 8 16
  | .noAck | .held => []

/-- Whether a PANEL_ID_READ uses the PID bus (R320). -/
def Die.panelReads (x : Die) : Bool := match x.hif.panel with | some j => j.cmd.opcode == 0x15 | none => false

/-- A read of the identity memory on the PID bus (R319, R320). -/
def Die.pidRead (x : Die) (offset n : Nat) : Die := x.emit (.pidRead (x.get F.pidAddr) (x.on F.pidFast) offset n)

/-- The read of the identity record starts (R284, R319). -/
def Die.identityStart (x : Die) : Die :=
  ({ x with wear := { x.wear with reading := some 0, readDone := false } }.flag F.pidBusy true).pidRead 0 256

/-- One read of the identity record ends (R285, R319): up to three attempts are made. -/
def Die.identityDone (x : Die) (r : IdRead) : Die :=
  match x.wear.reading with
  | none => x
  | some n =>
    let bad := recordFault r
    if bad != 0 && n < 2 then { x with wear := { x.wear with reading := some (n + 1) } }.pidRead 0 256
    else
      let x := { x with wear := { x.wear with reading := none, readDone := true } }.flag F.pidBusy x.panelReads
      let x := x.flag F.recordOk (bad == 0)
      if bad = 0 then x.takeKey (some (recordKey r)) else (x.raise 0xA6 bad).takeKey none

/-- Whether the ledger may be checkpointed now (R282, R285, R334). -/
def Die.mayCheckpoint (x : Die) : Bool := x.storeMay && x.on F.wearEn && x.wear.ledgerOk

/-- WEAR_CHECKPOINT (R282): the RTC enters a new hour. A part whose turn the store engine has held up all hour is overdue. -/
def execWearCheckpoint (d : DieId) (s : State) : Result :=
  onDie s d fun c x =>
    let rtc := c.mod.rtc.toNat
    let p := rtc / 3600 % 24
    let x := x.put F.nextPart ((p + 1) % 24)
    let x := match x.cst.wait with
      | some q => { x with cst := { x.cst with wait := none } }.addOverdue q
      | none => x
    if !x.mayCheckpoint then x.addOverdue p
    else if x.cst.op = .idle then (x.startPart rtc p).storeBusy
    else { x with cst := { x.cst with wait := some p } }

/-- WEAR_CHECKPOINT_OVERDUE (R282): one overdue part is written. -/
def execWearCheckpointOverdue (d : DieId) (s : State) : Result :=
  onDie s d fun c x =>
    match x.wear.overdue with
    | p :: t =>
      if x.mayCheckpoint && x.cst.op = .idle then
        (({ x with wear := { x.wear with overdue := t } }.overdueFlag).startPart c.mod.rtc.toNat p).storeBusy
      else x
    | [] => x

/-- Whether the wear strip and the staging area share a scratch byte (R281). -/
def Die.stripOverlaps (x : Die) : Bool :=
  let a := 32 * x.get F.stripBase
  let b := 32 * x.get F.stageBase
  a < b + x.get F.stageLines * 6 * x.width && b < a + 384 * x.width

/-- Write WEAR_CFG (R281): EN does not rise while LDB is enabled and the areas overlap; every other field is stored. -/
def Die.writeWearCfg (x : Die) (v : Word) (mask : Word := 0xFFFFFFFF) : Die :=
  if !x.on F.wearEn && x.on F.ldbEn && x.stripOverlaps then x.store 0x5040 v (mask &&& 0xFFFFFFFE)
  else x.store 0x5040 v mask

/-- DRC_LOAD in MB/s, rounded: r × (f + g + x + e + w) of R227 with f for A3. -/
def Die.loadOf (x : Die) : Nat :=
  let w := x.width
  let r := x.rateMin
  let cost := 36 * b2n (x.on F.corEn) + 36 * b2n (x.on F.corEn && x.on F.corCross) + 18 * b2n (x.on F.odEn) +
    9 * b2n (x.on F.wearEn)
  (roundDiv ((x.height * r.1 * (10 * (w + 16) + w * cost) : Nat)) (4000000 * r.2)).toNat

/-- A configuration change: DRC_LOAD follows, and DRAM_LOAD_HIGH is raised when it comes above 10,500 (R227). (DEDUCED,
assumption 25). -/
def Die.updLoad (x : Die) : Die :=
  let was := x.on F.loadHigh
  let l := x.loadOf
  let x := (x.put F.drcLoad (min l 0xFFFF)).flag F.loadHigh (10500 < l)
  if 10500 < l && !was then x.raise 0x73 (min l 0xFFFF) else x

/-- WEAR_ENABLE (R227, R281). -/
def execWearEnable (d : DieId) (v : Word) (s : State) : Result :=
  onDie s d fun _ x => if x.barOpen then (x.writeWearCfg (v ||| 1)).updLoad else x

/-- Write WEAR_STRIP (R281): stored only while WEAR_CFG.EN is 0. -/
def Die.writeWearStrip (x : Die) (v : Word) (mask : Word := 0xFFFFFFFF) : Die :=
  if x.on F.wearEn then x else x.store 0x5050 v mask

/-- WEAR_STRIP_WRITE (R281). -/
def execWearStripWrite (d : DieId) (v : Word) (s : State) : Result :=
  onDie s d fun _ x => if x.barOpen then x.writeWearStrip v else x

end Sys2Proof.Machine
end

