-- ==== Sys2Proof/Machine/Pixels.lean ====
section
/-! DEFINITION. One pixel's way from the frame store to the driver value, as pure functions of the die: the Atomizer decoder
(R156–R162), Heart and Top (R250–R257), EOTF and gamut (R264, R265), correction, brightness, seam and defects (R267–R278),
overdrive and dither (R290–R297). Memory is read as the masters of R213 read it. -/

namespace Sys2Proof.Machine

/-- What master `m` reads (R213, R219). -/
def Die.seen (x : Die) (m : Nat) (dram : Bool) (addr n : Nat) : List Byte := (x.readAs m dram addr n).1

/-- A little-endian number as master `m` reads it. -/
def Die.seenNat (x : Die) (m : Nat) (dram : Bool) (addr n : Nat) : Nat := ofLe (x.seen m dram addr n)

/-- Whether a range touches a word that is poisoned or late in this frame (R225, R226). -/
def Die.badRange (x : Die) (addr n : Nat) : Bool := (wordsOf addr n).any x.lyr.bad.contains

/-- A pixel: R, G and B. -/
abbrev Rgb := Nat × Nat × Nat

/-- Component `c` of a pixel. -/
def Rgb.at (p : Rgb) (c : Nat) : Nat := if c = 0 then p.1 else if c = 1 then p.2.1 else p.2.2

/-- A pixel from its components. -/
def Rgb.of (f : Nat → Nat) : Rgb := (f 0, f 1, f 2)

/-- Three 10-bit codes from bit 0 on (R157). -/
def rgb30 (v : Nat) : Rgb := (bits v 0 10, bits v 10 10, bits v 20 10)

/-- `n` bits of a byte string from bit `k` on (R157). -/
def bitsOf (bs : List Byte) (k n : Nat) : Nat := bits (natAt bs (k / 8) ((k % 8 + n + 7) / 8)) (k % 8) n

/-- Pixel `p` of a coded block (R159–R161): a Range block, a Pair block, black for a reserved MODE. -/
def codedPixel (codec : Nat) (blk : List Byte) (p : Nat) : Rgb :=
  if bitsOf blk 0 2 = 0 then
    let res (c : Nat) : Nat :=
      if codec = 1 then
        if c = 0 then bitsOf blk (44 + 2 * p) 2 else if c = 1 then bitsOf blk (76 + 3 * p) 3 else bitsOf blk (124 + 2 * p) 2
      else if c = 0 then bitsOf blk (44 + p) 1
      else if c = 1 then bitsOf blk (60 + 2 * p) 2
      else bitsOf blk (92 + p) 1
    Rgb.of fun c =>
      let q := min (bitsOf blk (32 + 4 * c) 4) 9
      min (bitsOf blk (2 + 10 * c) 10 + res c * 2 ^ q + (if q = 0 then 0 else 2 ^ (q - 1))) 1023
  else if bitsOf blk 0 2 = 1 then
    rgb30 (if bitsOf blk (62 + p) 1 = 1 then bitsOf blk 32 30 else bitsOf blk 2 30)
  else (0, 0, 0)

/-- Whether block `k` of a slice, counted over both block rows, lies in an exact run (R158). -/
def exactBlock (nb : Nat) (runs : List Nat) (k : Nat) : Bool :=
  runs.any fun r => bits r 18 1 == k / nb && bits r 0 9 ≤ k % nb && k % nb < bits r 0 9 + bits r 9 9

/-- The exact runs of an A3 or A4 payload; none without a map (R158). -/
def sliceRuns (nb codec : Nat) (pay : List Byte) : List Nat :=
  if pay.length = 2 * nb * blockSize codec then [] else mapRuns pay

/-- Byte offset of block `k` of a slice (R157, R158). -/
def blockStart (nb codec : Nat) (runs : List Nat) (k : Nat) : Nat :=
  (if runs.isEmpty then 0 else 4 + 4 * runs.length) +
    ((List.range k).map fun j => if exactBlock nb runs j then 60 else blockSize codec).sum

/-- A committed slice as the decoder finds it: DRAM address, CODEC and payload (R162). -/
structure Slice where
  addr  : Nat
  codec : Nat
  pay   : List Byte

/-- Slice `i` of the displayed frame; none where nothing was ever committed, which decodes as black (R240). -/
def Die.shownSlice (x : Die) (i : Nat) : Option Slice :=
  match (x.buf x.tmg.display).slices.find? (·.1 == i) with
  | some (_, _, len, codec) =>
    let a := x.placeAt x.tmg.display i
    some ⟨a, codec, x.seen 0 true a len⟩
  | none => none

/-- Coded columns (R156). -/
def Die.coded (x : Die) : Nat := x.width + 16

/-- The decoded pixel at coded column `cx`, line `ly` of a slice (R156–R161); black where a byte of its block is poisoned
(R225). -/
def Die.slicePixel (x : Die) (s : Slice) (cx ly : Nat) : Rgb :=
  if s.codec = 0 then
    let bit (c l : Nat) : Nat := 30 * (l * x.coded + c)
    let c0 := cx / 4 * 4
    let cols := min 4 (x.coded - c0)
    let bad := (List.range 4).any fun r =>
      let b := bit c0 (ly / 4 * 4 + r)
      x.badRange (s.addr + b / 8) ((b % 8 + 30 * cols + 7) / 8)
    if bad then (0, 0, 0) else rgb30 (bitsOf s.pay (bit cx ly) 30)
  else
    let nb := x.coded / 4
    let runs := sliceRuns nb s.codec s.pay
    let k := ly / 4 * nb + cx / 4
    let p := 4 * (ly % 4) + cx % 4
    let o := blockStart nb s.codec runs k
    let exact := exactBlock nb runs k
    let n := if exact then 60 else blockSize s.codec
    if x.badRange (s.addr + o) n then (0, 0, 0)
    else if exact then rgb30 (bitsOf (bytesAt s.pay o n) (30 * p) 30)
    else codedPixel s.codec (bytesAt s.pay o n) p

/-- Blocks of a reserved MODE in block row `row` of a slice, poisoned ones left out (R160). -/
def Die.reservedBlocks (x : Die) (s : Slice) (row : Nat) : Nat :=
  if s.codec = 0 then 0
  else
    let nb := x.coded / 4
    let runs := sliceRuns nb s.codec s.pay
    ((List.range nb).filter fun c =>
      let k := row * nb + c
      let o := blockStart nb s.codec runs k
      !exactBlock nb runs k && 2 ≤ bitsOf (bytesAt s.pay o 1) 0 2 && !x.badRange (s.addr + o) (blockSize s.codec)).length

/-- A 10-bit code in the 16-bit pipeline (R162). -/
def wide10 (v : Nat) : Nat := v * 64 + v / 16

/-- The Base pixel at column `cx` of the coded half, on line `y` (R156, R162). -/
def Die.basePixel (x : Die) (s : Option Slice) (cx y : Nat) : Rgb :=
  match s with
  | some s => let p := x.slicePixel s cx (y % 8); Rgb.of fun c => wide10 (p.at c)
  | none => (0, 0, 0)

/-- Coded column of column 0 of the half: the overlap of die E comes first (R156). -/
def Die.col0 (x : Die) : Nat := if x.id == .E then 16 else 0

/-- Whether window line and column of a layer are shown at (`px`, `y`) (R256). -/
def Die.inWindow (x : Die) (i px y : Nat) : Bool :=
  x.get (F.winX i) ≤ px && px < x.get (F.winX i) + x.get (F.winW i) && x.get (F.winY i) ≤ y &&
    y < x.get (F.winY i) + x.get (F.winH i)

/-- Sample `i` of a chroma or luma row at scratch address `a`: one byte, or 10 bits in two (R251). -/
def Die.sampleAt (x : Die) (a i : Nat) : Nat :=
  if x.on F.depth10 then x.seenNat 1 false (a + 2 * i) 2 % 1024 else x.seenNat 1 false (a + i) 1

/-- Bytes of one sample (R251). -/
def Die.sampleBytes (x : Die) : Nat := if x.on F.depth10 then 2 else 1

/-- Whether chroma is subsampled down the window, and along it (R251). -/
def Die.subV (x : Die) : Bool := x.get F.hFmt < 2
def Die.subH (x : Die) : Bool := x.get F.hFmt < 4

/-- Scratch address of row `r` of Heart plane `k`, whose ring has `ring` slots (R252). -/
def Die.heartRow (x : Die) (k r ring : Nat) : Nat :=
  32 * x.get (F.hBase32 k) + (if ring = 0 then 0 else r % ring) * (32 * x.get (F.hPitch32 k))

/-- Slots of the chroma rings (R252). -/
def Die.chromaRing (x : Die) : Nat := if x.subV then x.get (F.lbLines 0) / 2 else x.get (F.lbLines 0)

/-- Chroma sample of component `c` (0 Cb, 1 Cr) at chroma column `j` of chroma row `r` (R251, R252). -/
def Die.chromaAt (x : Die) (c j r : Nat) : Nat :=
  if x.get F.hFmt % 2 = 0 && x.get F.hFmt < 4 then x.sampleAt (x.heartRow 1 r x.chromaRing) (2 * j + c)
  else x.sampleAt (x.heartRow (1 + c) r x.chromaRing) j

/-- The two taps of output position `n` in a subsampled direction: index and weight in quarters, the indices held within
`lo … hi` (R254). -/
def chromaTaps (centred : Bool) (n lo hi : Nat) : List (Nat × Nat) :=
  let j := n / 2
  let hold (i : Nat) : Nat := max lo (min hi i)
  match centred, n % 2 with
  | false, 0 => [(hold j, 4)]
  | false, _ => [(hold j, 2), (hold (j + 1), 2)]
  | true, 0 => [(hold j, 3), (hold (j - 1), 1)]
  | true, _ => [(hold j, 3), (hold (j + 1), 1)]

/-- Chroma component `c` at window position (`wx`, `l`), in sixteenths of a code (R254). -/
def Die.chroma16 (x : Die) (c wx l : Nat) : Nat :=
  let lpu := max 1 (x.get (F.lpu 0))
  let hs := if x.subH then chromaTaps (x.on F.siteH) wx 0 (x.get (F.winW 0) / 2 - 1) else [(wx, 4)]
  let vs :=
    if x.subV then
      let lo := l / lpu * lpu / 2
      chromaTaps (x.on F.siteV) l lo (min (lo + lpu / 2 - 1) (x.get (F.winH 0) / 2 - 1))
    else [(l, 4)]
  (vs.flatMap fun v => hs.map fun h => v.2 * h.2 * x.chromaAt c h.1 v.1).sum

/-- Kr and Kb in ten-thousandths (R253). -/
def matrixK (m : Nat) : Nat × Nat := if m = 0 then (2990, 1140) else if m = 1 then (2126, 722) else (2627, 593)

/-- R'G'B' of a luma code and two chroma codes in sixteenths, of `n` bits (R253): exact, then clipped and rounded once. -/
def ycbcr (matrix n : Nat) (full : Bool) (y cb16 cr16 : Nat) : Rgb :=
  let m : Nat := 2 ^ (n - 8)
  let (kr, kb) := matrixK matrix
  let yn : Int := if full then y else (y : Int) - 16 * m
  let yd : Int := if full then 2 ^ n - 1 else 219 * m
  let cd : Int := 16 * (if full then 2 ^ n - 1 else 224 * m)
  let cn (c : Nat) : Int := (c : Int) - 16 * 2 ^ (n - 1)
  let d := yd * cd * 10000
  let r := yn * cd * 10000 + 2 * (10000 - (kr : Int)) * cn cr16 * yd
  let b := yn * cd * 10000 + 2 * (10000 - (kb : Int)) * cn cb16 * yd
  let kg : Int := 10000 - kr - kb
  let g := 10000 * (yn * cd * 10000) - kr * r - kb * b
  (clip (roundDiv (65535 * r) d.toNat) 65535, clip (roundDiv (65535 * g) (d * kg).toNat) 65535,
    clip (roundDiv (65535 * b) d.toNat) 65535)

/-- The Heart sample at window position (`wx`, `l`) as R'G'B' (R251–R254). -/
def Die.heartPixel (x : Die) (wx l : Nat) : Rgb :=
  ycbcr (x.get F.hMatrix) (if x.on F.depth10 then 10 else 8) (x.on F.fullRange)
    (x.sampleAt (x.heartRow 0 l (x.get (F.lbLines 0))) wx) (x.chroma16 0 wx l) (x.chroma16 1 wx l)

/-- Scratch address of Top's window line `l` (R252). -/
def Die.topRow (x : Die) (l : Nat) : Nat :=
  32 * x.get F.tBase32 + (if x.get (F.lbLines 1) = 0 then 0 else l % x.get (F.lbLines 1)) * (32 * x.get F.tPitch32)

/-- The Top word at window position (`wx`, `l`) (R255). -/
def Die.topWord (x : Die) (wx l : Nat) : Nat := x.seenNat 1 false (x.topRow l + 4 * wx) 4

/-- Blend one component (R257): straight, or premultiplied. -/
def blend (premul : Bool) (dst src alpha : Nat) : Nat :=
  if premul then min 65535 (src + (roundDiv ((dst : Int) * (65535 - alpha : Nat)) 65535).toNat)
  else ((dst : Int) + roundDiv (((src : Int) - dst) * alpha) 65535).toNat

/-- The composed pixel: Base, Heart over it, Top over the result (R250, R257). `h` and `t` say whether the layers are shown on
this line. -/
def Die.composed (x : Die) (h t : Bool) (base : Rgb) (px y : Nat) : Rgb :=
  let p :=
    if h && x.inWindow 0 px y then
      let s := x.heartPixel (px - x.get (F.winX 0)) (y - x.get (F.winY 0))
      Rgb.of fun c => blend false (base.at c) (s.at c) (257 * x.get F.hGalpha)
    else base
  if t && x.inWindow 1 px y then
    let w := x.topWord (px - x.get (F.winX 1)) (y - x.get (F.winY 1))
    let a := (bits w 24 8 * x.get F.tGalpha + 127) / 255
    let s : Rgb := (257 * bits w 16 8, 257 * bits w 8 8, 257 * bits w 0 8)
    Rgb.of fun c => blend (x.on F.premul) (p.at c) (s.at c) (257 * a)
  else p

/-- DRAM address of entry `i` of EOTF curve `c` in use (R264). -/
def Die.eotfAt (x : Die) (c i : Nat) : Nat :=
  0x03000000 + 0x8000 * b2n x.lyr.bank + 0x2000 * (x.get F.eotfSel - 1) + 0x0840 * c + 2 * i

/-- The EOTF on one component (R264). A poisoned entry acts as the identity (R225). -/
def Die.eotf (x : Die) (c v : Nat) : Nat :=
  if x.get F.eotfSel = 0 then v
  else
    let e (i : Nat) : Int := if x.badRange (x.eotfAt c i) 2 then (64 * i : Nat) else x.seenNat 1 true (x.eotfAt c i) 2
    clip (e (v / 64) + roundDiv ((e (v / 64 + 1) - e (v / 64)) * (v % 64 : Nat)) 64) 65535

/-- The gamut matrix (R265). -/
def Die.gamut (x : Die) (p : Rgb) : Rgb :=
  Rgb.of fun i => clip (roundDiv
    (((List.range 3).map fun j => toSigned 16 (x.get (F.cmCoef (3 * i + j))) * (p.at j : Int)).sum) 16384) 65535

/-- Block of a pixel in the correction map, and its position in the block (R268). -/
def Die.corBlock (x : Die) (px y : Nat) : Nat := y / 8 * ((x.width + 7) / 8) + px / 8

/-- The DRAM ranges of a block's records and exponent word in the bank in use (R268). -/
def Die.corRanges (x : Die) (b : Nat) : List (Nat × Nat) :=
  let base := bankAt (b2n x.lyr.corBank)
  [(base + 576 * b, 576), (base + 1152 * x.nb + 4 * b, 4)] ++
    (if x.on F.corCross then [(base + 576 * x.nb + 576 * b, 576)] else [])

/-- Whether correction acts (R269, R271). -/
def Die.corActs (x : Die) : Bool := x.on F.corEn && x.on F.mapOk

/-- A 12-bit mantissa of a pixel: plane 0 gain, 1 cross (R268). -/
def Die.mantissaAt (x : Die) (plane b p k : Nat) : Int :=
  let bit := 72 * p + 12 * k
  toSigned 12 (x.seenNat 2 true (bankAt (b2n x.lyr.corBank) + 576 * x.nb * plane + 576 * b + bit / 8) 2 / 2 ^ (bit % 8))

/-- Which cross field holds C_ij (R268). -/
def crossField (i j : Nat) : Nat := 2 * i + (if i < j then j - 1 else j)

/-- Correction of a pixel (R269); unity where the block is poisoned (R225). -/
def Die.correct (x : Die) (v : Rgb) (px y : Nat) : Rgb :=
  let b := x.corBlock px y
  if !x.corActs || (x.corRanges b).any (fun r => x.badRange r.1 r.2) then v
  else
    let p := 8 * (y % 8) + px % 8
    let ew := x.seenNat 2 true (bankAt (b2n x.lyr.corBank) + 1152 * x.nb + 4 * b) 4
    let em := bits ew 0 5
    let eo := bits ew 8 5
    Rgb.of fun i =>
      let term (j : Nat) : Int :=
        if j = i then x.mantissaAt 0 b p i * (v.at j : Int)
        else if x.on F.corCross then x.mantissaAt 1 b p (crossField i j) * (v.at j : Int) else 0
      let s := ((List.range 3).map term).sum * 2 ^ eo + x.mantissaAt 0 b p (3 + i) * 2 ^ (16 + em)
      clip (roundDiv s (2 ^ (em + eo))) 65535

/-- Brightness (R267). -/
def Die.bright (x : Die) (v : Nat) : Nat := clip (roundDiv ((v : Int) * x.get F.brightness) 4095) 65535

/-- DRAM address of a seam gain: edge `k`, distance `d`, colour `c` (R275). -/
def Die.seamAt (x : Die) (k d c : Nat) : Nat := 0x03010000 + 0x400 * b2n x.lyr.bank + 2 * (48 * k + 3 * d + c)

/-- The weight of the internal seam at distance `d`, as a fraction (R276): the difference of the Base pixels on both sides. -/
def Die.seamWeight (x : Die) (s : Option Slice) (d y : Nat) : Nat × Nat :=
  let own := if x.id == .E then 16 + d else x.width - 1 - d
  let far := if x.id == .E then 15 - d else x.width + d
  let a := x.basePixel s own y
  let b := x.basePixel s far y
  let diff := ((List.range 3).map fun c => ((a.at c : Int) - (b.at c : Int)).natAbs).foldl max 0
  let fr := max 1 (x.get F.flatRange)
  (fr - diff, fr)

/-- The applied gain of one edge at distance `d` on colour `c`, as a fraction (R275, R276). -/
def Die.edgeGain (x : Die) (s : Option Slice) (k d c y : Nat) : Nat × Nat :=
  if 16 ≤ d || x.badRange (x.seamAt k d c) 2 then (1, 1)
  else
    let g := x.seenNat 2 true (x.seamAt k d c) 2
    if (x.id == .W && k = 1) || (x.id == .E && k = 0) then
      let (wn, wd) := x.seamWeight s d y
      ((16384 * wd + wn * g) - 16384 * wn, 16384 * wd)
    else (g, 16384)

/-- Seam gain on one component: the product of the gains of its edges, rounded once (R267, R275). -/
def Die.seam (x : Die) (s : Option Slice) (v c px y : Nat) : Nat :=
  if x.on F.corSeam then
    let g := [x.edgeGain s 0 px c y, x.edgeGain s 1 (x.width - 1 - px) c y, x.edgeGain s 2 y c y,
      x.edgeGain s 3 (x.height - 1 - y) c y]
    clip (roundDiv ((v : Int) * (g.map (·.1)).prod) (g.map (·.2)).prod) 65535
  else v

/-- The drive level of a pixel after the gamut matrix (R267). `off` lists the lamps forced off on the line (R277, R278). -/
def Die.drive (x : Die) (s : Option Slice) (off : List (Nat × Nat)) (v : Rgb) (px y : Nat) : Rgb :=
  let v := x.correct v px y
  Rgb.of fun c => if off.contains (px, c) then 0 else x.seam s (x.bright (v.at c)) c px y

/-- Bytes of an echo line (R291). -/
def Die.echoPitch (x : Die) : Nat := (18 * x.width + 255) / 256 * 32

/-- DRAM address of line `y` of the echo frame (R291). -/
def Die.echoAt (x : Die) (y : Nat) : Nat := 0x02000000 + y * x.echoPitch

/-- DRAM address of a delta of the overdrive table in use (R292). -/
def Die.odAt (x : Die) (c a k : Nat) : Nat := 0x03020000 + 0x800 * b2n x.lyr.bank + 2 * (289 * c + 17 * a + k)

/-- Overdrive of one component from echo code `e`, before the clip (R292). -/
def Die.odSum (x : Die) (c l e : Nat) : Int :=
  let t (a k : Nat) : Int := toSigned 16 (x.seenNat 4 true (x.odAt c a k) 2)
  let p := e * 1024
  let a := p / 4096
  let k := l / 4096
  let row (n : Nat) : Int := t n k + roundDiv ((t n (k + 1) - t n k) * (l % 4096 : Nat)) 4096
  (l : Int) + (row a + roundDiv ((row (a + 1) - row a) * (p % 4096 : Nat)) 4096)

/-- Whether overdrive acts on a component (R292, R293). -/
def Die.odActs (x : Die) (c l e px y : Nat) : Bool :=
  let bit := 18 * px
  let p := e * 1024
  x.lyr.odEn && x.on F.echoValid && l / 1024 != e &&
    !x.badRange (x.echoAt y + bit / 8) ((bit % 8 + 25) / 8) &&
    !([(p / 4096, l / 4096), (p / 4096, l / 4096 + 1), (p / 4096 + 1, l / 4096), (p / 4096 + 1, l / 4096 + 1)].any
      fun n => x.badRange (x.odAt c n.1 n.2) 2)

/-- The echo code of a component in an echo line's bytes (R291). -/
def echoCode (line : List Byte) (px c : Nat) : Nat := bitsOf line (18 * px + 6 * c) 6

/-- Overdrive of a pixel (R292), with the results that were clipped; lamps forced off are left out (R290). -/
def Die.overdrive (x : Die) (off : List (Nat × Nat)) (line : List Byte) (v : Rgb) (px y : Nat) : Rgb × Nat :=
  let act (c : Nat) : Bool := !off.contains (px, c) && x.odActs c (v.at c) (echoCode line px c) px y
  let sum (c : Nat) : Int := x.odSum c (v.at c) (echoCode line px c)
  (Rgb.of fun c => if act c then clip (sum c) 65535 else v.at c,
    ((List.range 3).filter fun c => act c && (sum c < 0 || 65535 < sum c)).length)

/-- The driver's depth D (R296, ODD_CFG.DEPTH). -/
def Die.depth (x : Die) : Nat := if x.get F.depth = 0 then 12 else if x.get F.depth = 1 then 14 else 16

/-- The dither matrix (R296). -/
def ditherMatrix : List Nat := [0, 8, 2, 10, 12, 4, 14, 6, 3, 11, 1, 9, 15, 7, 13, 5]

/-- Dither of one component (R296). -/
def Die.dither (x : Die) (v c px y : Nat) : Nat :=
  let d := x.depth
  let ph := x.lyr.dphase
  let gx := (px + x.get F.oddOx + bits ph 2 2 + c) % 4
  let gy := (y + x.get F.oddOy + bits ph 4 2) % 4
  let m := ditherMatrix.getD (4 * gy + gx) 0
  let f := x.get F.oddPhase
  let t := if !x.on F.dithEn then 0 else if d = 12 then (m + 4 * f) % 16 else if d = 14 then (m + f) % 4 else 0
  (v - v / 2 ^ d + t) / 2 ^ (16 - d)

/-- BLANK as it applies: 1 while either party orders it (R151, R248). -/
def Die.blanked (x : Die) : Bool := x.acd.hostBlank || x.acd.wallBlank

/-- What one pixel is at the taps T0, T1 and T2, its drive level, and its clipped overdrive results (R335). -/
structure Lamp where
  t0      : Rgb
  level   : Rgb
  t1      : Rgb
  t2      : Rgb
  clipped : Nat

/-- One pixel of line `y` through the whole pipeline. `s` is its slice, `h` and `t` whether the layers show, `off` the lamps
forced off, `echo` the echo line. A lamp forced off skips overdrive and dither (R290). -/
def Die.lamp (x : Die) (s : Option Slice) (h t : Bool) (off : List (Nat × Nat)) (echo : List Byte) (px y : Nat) : Lamp :=
  let t0 := x.composed h t (x.basePixel s (x.col0 + px) y) px y
  let level := x.drive s off (x.gamut (Rgb.of fun c => x.eotf c (t0.at c))) px y
  let od := x.overdrive off echo level px y
  let t1 := Rgb.of fun c => if off.contains (px, c) then 0 else od.1.at c
  { t0 := t0, level := level, t1 := t1, clipped := od.2
    t2 := Rgb.of fun c => if off.contains (px, c) || x.blanked then 0 else x.dither (t1.at c) c px y }

end Sys2Proof.Machine
end

