-- ==== Sys2Proof/Machine/Line.lean ====
section
/-! DEFINITION. The line period (R246): frame timers, the layers' delivery and underrun (R258–R262, R266), memory errors by
master (R216, R224–R226), the line's lamps with staging, echo, wear and Blotter (R279, R280, R288, R291, R307, R337). -/

namespace Sys2Proof.Machine

/-- Layer `i`: 0 Heart, 1 Top. -/
def Die.layer (x : Die) (i : Nat) : Layer := if i = 0 then x.lyr.heart else x.lyr.top

/-- Replace layer `i`. -/
def Die.setLayer (x : Die) (i : Nat) (l : Layer) : Die :=
  { x with lyr := { x.lyr with heart := if i = 0 then l else x.lyr.heart, top := if i = 0 then x.lyr.top else l } }

/-- Whether the registers of layer `i` break a rule of R266. -/
def Die.layerBad (x : Die) (i : Nat) : Bool :=
  let w := x.get (F.winW i)
  let h := x.get (F.winH i)
  let lpu := x.get (F.lpu i)
  let lb := x.get (F.lbLines i)
  let fmt := x.get F.hFmt
  let sb := x.sampleBytes
  let pitch (k : Nat) : Nat := 32 * x.get (F.hPitch32 k)
  w = 0 || x.width < x.get (F.winX i) + w || h = 0 || x.height < x.get (F.winY i) + h ||
    lpu = 0 || 64 < lpu || lb % lpu != 0 || lb < 2 * lpu ||
    (if i = 0 then
      4 < fmt || 2 < x.get F.hMatrix || (fmt < 4 && w % 2 != 0) || (fmt < 2 && (h % 2 != 0 || lpu % 2 != 0)) ||
        pitch 0 < w * sb ||
        (if fmt = 0 || fmt = 2 then pitch 1 < w * sb
        else if fmt = 1 || fmt = 3 then pitch 1 < w / 2 * sb || pitch 2 < w / 2 * sb
        else pitch 1 < w * sb || pitch 2 < w * sb)
    else 32 * x.get F.tPitch32 < 4 * w)

/-- The applied HEART_EN or TOP_EN (R151, R263). -/
def Die.layerEnabled (x : Die) (i : Nat) : Bool := if i = 0 then x.on F.heartEn else x.on F.topEn

/-- The latch bit of a layer (R262). -/
def latchBit (i : Nat) : F := if i = 0 then F.hLatch else F.tLatch

/-- The count of underrun frames in a row of a layer (R262). -/
def runField (i : Nat) : F := if i = 0 then F.hRun else F.tRun

/-- A write to the LYR block: each enabled layer is checked, and a failing one is transparent from the next line (R266). -/
def Die.layerWrite (x : Die) (off : Nat) : Die :=
  let bad := [0, 1].filter fun i => x.layerEnabled i && x.layerBad i
  let x := bad.foldl (fun x i => x.setLayer i { x.layer i with invalid := true }) x
  if bad.isEmpty then x else x.raise 0x8A (off % 2 ^ 16)

/-- What a frame start does to layer `i` (R195, R258, R261–R263, R266): its enable is sampled, its fills restart at 0. -/
def Die.layerStart (x : Die) (i : Nat) : Die :=
  let l := x.layer i
  let x := if l.under then x else x.put (runField i) 0
  x.setLayer i {
    fills := 0, under := false, invalid := x.layerEnabled i && x.layerBad i
    on := x.layerEnabled i && !x.hif.layersOff && !x.on (latchBit i) }

/-- Layer `i` underruns at its window line `l` (R261, R262). -/
def Die.underrun (x : Die) (i l : Nat) : Die :=
  let fills := (x.layer i).fills
  let x := (x.setLayer i { x.layer i with under := true }).bump (F.lyrUnderrun i)
  let x := x.raiseLim secCclk i 0x88 (i + 2 ^ 8 * (fills % 256) + 2 ^ 16 * l)
  let x := x.bump (runField i)
  let n := x.get (F.latchN i)
  if n != 0 && n ≤ x.get (runField i) then (x.flag (latchBit i) true).raise 0x89 i else x

/-- The scratch ranges that window line `l` of layer `i` is composed from (R252, R254). -/
def Die.layerRanges (x : Die) (i l : Nat) : List (Nat × Nat) :=
  let w := x.get (F.winW i)
  if i = 0 then
    let lpu := max 1 (x.get (F.lpu 0))
    let lo := l / lpu * lpu / 2
    let rows := if x.subV then
        (chromaTaps (x.on F.siteV) l lo (min (lo + lpu / 2 - 1) (x.get (F.winH 0) / 2 - 1))).map (·.1)
      else [l]
    let full := w * x.sampleBytes
    let half := w / 2 * x.sampleBytes
    let chroma (r : Nat) : List (Nat × Nat) :=
      let at1 := x.heartRow 1 r x.chromaRing
      let at2 := x.heartRow 2 r x.chromaRing
      match x.get F.hFmt with
      | 0 => [(at1, full)]
      | 1 => [(at1, half), (at2, half)]
      | 2 => [(at1, full)]
      | 3 => [(at1, half), (at2, half)]
      | _ => [(at1, full), (at2, full)]
    (x.heartRow 0 l (x.get (F.lbLines 0)), full) :: rows.eraseDups.flatMap chroma
  else [(x.topRow l, 4 * w)]

/-- Layer `i` on display line `y` (R256, R259, R261, R216): whether it shows. -/
def Die.layerLine (x : Die) (i y : Nat) : Bool × Die :=
  let l := x.layer i
  let y0 := x.get (F.winY i)
  if !l.on || l.under || l.invalid || y < y0 || y0 + x.get (F.winH i) ≤ y then (false, x)
  else if l.fills < (y - y0) / max 1 (x.get (F.lpu i)) + 1 then (false, x.underrun i (y - y0))
  else
    let rs := x.layerRanges i (y - y0)
    let x := rs.foldl (fun x r => (x.readAs 1 false r.1 r.2).2) x
    let bad := (rs.flatMap fun r => wordsIn x.mem.scratchUe r).eraseDups
    (bad.isEmpty, bad.foldl Die.scratchUeRaise x)

/-- The master whose area of DRAM holds a word; 6 outside the pipeline's areas (R213, R222). -/
def areaMaster (w : Nat) : Nat :=
  if w < 0x02000000 then 0
  else if w < 0x03000000 then 4
  else if w < 0x03010000 then 1
  else if w < 0x03020000 then 2
  else if w < 0x03040000 then 4
  else if w < 0x04000000 then 5
  else if w < 0x0E000000 then 2
  else if w < 0x13000000 then 3
  else 6

/-- COR_DEFECTS.COUNT as it acts (R277). -/
def Die.defects (x : Die) : Nat := min 4096 (x.get F.defectCount)

/-- DRAM address of defect entry `i` (R277). -/
def defectAt (i : Nat) : Nat := 0x03011000 + 8 * i

/-- Sort key of a defect entry: (y, x, lamp) (R277). -/
def defectKey (e : List Byte) : Nat := (natAt e 2 2 * 65536 + natAt e 0 2) * 256 + natAt e 4 1

/-- The first entry of a list that is out of order (R277). -/
def firstUnordered (es : List (List Byte)) : Option Nat :=
  (List.range es.length).find? fun i => i != 0 && defectKey (es.getD i []) < defectKey (es.getD (i - 1) [])

/-- The defect entries in use. -/
def Die.defectList (x : Die) : List (List Byte) := (List.range x.defects).map fun i => x.seen 2 true (defectAt i) 8

/-- The lamps forced off on line `y`: column and colour (R277, R278); entries in a poisoned word force nothing (R225). -/
def Die.offLamps (x : Die) (y : Nat) : List (Nat × Nat) :=
  if x.on F.corDefect then
    let es := x.defectList
    (List.range ((firstUnordered es).getD es.length)).filterMap fun i =>
      let e := es.getD i []
      if natAt e 2 2 = y && natAt e 6 1 = 1 && !x.badRange (defectAt i) 8 then some (natAt e 0 2, natAt e 4 1) else none
  else []

/-- The DRAM ranges that the pipeline reads for line `y`, by master (R213, R222, R291). What serves several lines is read with
the first of them. -/
def Die.lineReads (x : Die) (s : Option Slice) (y : Nat) : List (Nat × Nat × Nat) :=
  let first := y % 8 = 0
  let nbw := (x.width + 7) / 8
  let b0 := y / 8 * nbw
  let bank := bankAt (b2n x.lyr.corBank)
  (match s with | some s => if first then [(0, s.addr, s.pay.length)] else [] | none => []) ++
  (if y = 0 && x.get F.eotfSel != 0 then (List.range 3).map fun c => (1, x.eotfAt c 0, 2050) else []) ++
  (if first && x.corActs then
    [(2, bank + 576 * b0, 576 * nbw), (2, bank + 1152 * x.nb + 4 * b0, 4 * nbw)] ++
      (if x.on F.corCross then [(2, bank + 576 * x.nb + 576 * b0, 576 * nbw)] else []) else []) ++
  (if y = 0 && x.on F.corSeam then [(2, x.seamAt 0 0 0, 384)] else []) ++
  (if y = 0 && x.on F.corDefect then [(2, defectAt 0, 8 * x.defects)] else []) ++
  (if y = 0 && x.lyr.odEn then [(4, x.odAt 0 0 0, 1734)] else []) ++
  (if x.lyr.odEn && x.on F.echoValid then [(4, x.echoAt y, x.echoPitch)] else []) ++
  (if first && x.wear.sampling && !x.wear.skip then [(3, ledgerAt (y / 8 * x.groupLamps), 6 * x.groupLamps)] else [])

/-- Word addresses as an observation gives them, in the pipeline's areas. -/
def obsWords (ws : List Nat) : List Nat := ((ws.map fun w => w / 32 * 32).filter fun w => areaMaster w < 6).eraseDups

/-- Whether a word that an observation gives as late is one of class 2 (R226): not of the frame store, the ledger or the overdrive
tables. -/
def lateCounts (w : Nat) : Bool := areaMaster w != 0 && areaMaster w != 3 && !(0x03020000 ≤ w && w < 0x03040000)

/-- Errors and late words that the line meets (R216, R224–R226): each word is taken once a frame. -/
def Die.lineErrors (x : Die) (rs : List (Nat × Nat × Nat)) (obs : MemObs) : Die :=
  let x := rs.foldl (fun x r => (x.readAs r.1 true r.2.1 r.2.2).2) x
  let x := (obsWords obs.ce).foldl (fun x w => x.dramCe (areaMaster w) w) x
  let met := ((rs.flatMap fun r => wordsIn x.mem.dramUe r.2) ++ obsWords obs.ue).eraseDups
  let ue := met.filter fun w => !x.lyr.bad.contains w
  let late := (obsWords obs.late).filter fun w => !x.lyr.bad.contains w && lateCounts w
  let x := ue.foldl (fun x w => x.noteUe (areaMaster w) [w]) x
  let x := x.bump F.drcLate late.length
  let x : Die := { x with
    lyr := { x.lyr with bad := x.lyr.bad ++ (ue ++ late).eraseDups }
    tmg := { x.tmg with late := x.tmg.late + late.length } }
  let sue := (obs.sue.map fun w => w / 32 * 32).eraseDups
  let fresh := sue.filter fun w => !x.mem.scratchUe.contains w
  fresh.foldl Die.scratchUeRaise { x with mem := { x.mem with scratchUe := x.mem.scratchUe ++ fresh } }

/-- Blocks of the line's block row that newly run at unity are counted (R225, COR_UNITY). -/
def Die.unityBlocks (x : Die) (y : Nat) : Die :=
  if x.corActs then
    let nbw := (x.width + 7) / 8
    let new := ((List.range nbw).map fun i => y / 8 * nbw + i).filter fun b =>
      !x.lyr.unity.contains b && (x.corRanges b).any fun r => x.badRange r.1 r.2
    { x.bump F.corUnity new.length with lyr := { x.lyr with unity := x.lyr.unity ++ new } }
  else x

/-- The wear engine reaches a line group (R280, R288): it skips one whose counters are late or that an export or import holds,
and restores poisoned words. -/
def Die.wearGroup (x : Die) (y : Nat) (obs : MemObs) : Die :=
  if !x.wear.sampling then x
  else
    let r := (ledgerAt (y / 8 * x.groupLamps), 6 * x.groupLamps)
    let skip := !(wordsIn (obsWords obs.late) r).isEmpty || x.hif.wear.isSome
    let x : Die := { x with wear := { x.wear with skip := skip } }
    if skip then x.bump F.wearSkipped else x

/-- Restore what the group's read has found poisoned (R288). -/
def Die.wearRestore (x : Die) (y : Nat) : Die :=
  if x.wear.sampling && !x.wear.skip && y % 8 = 0 then
    (wordsIn x.mem.dramUe (ledgerAt (y / 8 * x.groupLamps), 6 * x.groupLamps)).foldl Die.restoreWord x
  else x

/-- What a sample adds for drive level `l` over `dt` ns (R279). -/
def wearAdd (l dt : Nat) : Nat := (roundDiv ((l : Int) * dt * 2 ^ 17) (65535 * 1000000000)).toNat

/-- One counter goes through the strip (R217, R280): written as 64 bits, ADD_SAT, and back as 48 bits. -/
def Die.wearLamp (x : Die) (l slot add : Nat) : Die :=
  if x.badRange (ledgerAt l) 6 then x
  else
    let a := 32 * x.get F.stripBase + 8 * slot
    let (bs, x) := x.readAs 3 true (ledgerAt l) 6
    let x := x.writeAs 3 false a (le 8 (ofLe bs))
    let (bs, x) := (x.atomic 3 .addSat 64 a add).2.readAs 3 false a 8
    x.writeAs 3 true (ledgerAt l) (le 6 (min (ofLe bs) (2 ^ 48 - 1)))

/-- The DRAM traffic of a line group's counters (R280): read with its first line, in whole words, and written with its last. -/
def Die.wearTraffic (old x : Die) (y : Nat) : Die :=
  let r := (ledgerAt (y / 8 * x.groupLamps), 6 * x.groupLamps)
  let x : Die := { x with mem := { x.mem with wordsRd := old.mem.wordsRd, wordsWr := old.mem.wordsWr } }
  if y % 8 = 7 then x.traffic true (partWords r.1 r.2) (wordCount r.1 r.2) else x

/-- The wear sample of a line (R279, R280); under BLANK no drive is added. -/
def Die.wearLine (x : Die) (y : Nat) (lamps : List Lamp) : Die :=
  if x.wear.sampling && !x.wear.skip then
    let g := y / 8
    let dt := (look x.wear.dt g).getD 0
    let blank := x.blanked
    let one (x : Die) (k : Nat) : Die :=
      match lamps[k / 3]? with
      | some p =>
        x.wearLamp (x.lampNo (k / 3) y (k % 3)) (g % 2 * x.groupLamps + y % 8 * 3 * x.width + k)
          (if blank then 0 else wearAdd (p.level.at (k % 3)) dt)
      | none => x
    let x := x.wearTraffic ((List.range (3 * x.width)).foldl one x) y
    if y % 8 = 7 then { x with wear := { x.wear with dt := assoc x.wear.dt g 0 } } else x
  else x

/-- Bytes that a pixel gives the Blotter at a tap (R335, R337). -/
def tapBytes (tap : Nat) (p : Lamp) : List Byte :=
  let v := if tap = 0 then p.t0 else if tap = 1 then p.t1 else p.t2
  (List.range 3).flatMap fun c => le 2 (v.at c)

/-- The Blotter takes a line (R337). -/
def Die.blotterLine (x : Die) (y : Nat) (lamps : List Lamp) : Die :=
  { x with rects := x.rects.map fun r =>
      match r.cur with
      | some q =>
        if q.y ≤ y && y < q.y + q.h then
          { r with crc := cvuUpdate x.lyr.bltSel r.crc (((lamps.drop q.x).take q.w).flatMap (tapBytes q.tap)) }
        else r
      | none => r }

/-- Scratch address of the staged line `y` (R307). -/
def Die.stageAt (x : Die) (y : Nat) : Nat := 32 * x.get F.stageBase + y % max 1 (x.get F.stageLines) * (6 * x.width)

/-- The line's dithered lamps are staged for the formatter (R307). -/
def Die.stageLine (x : Die) (y : Nat) (lamps : List Lamp) : Die :=
  if x.on F.ldbEn then x.writeAs 5 false (x.stageAt y) (lamps.flatMap (tapBytes 2)) else x

/-- The line's echo words are written whole (R291). -/
def Die.echoLine (x : Die) (y : Nat) (lamps : List Lamp) : Die :=
  if x.lyr.odEn then
    let codes := lamps.flatMap fun p => (List.range 3).map fun c => p.level.at c / 1024 % 64
    let v := codes.reverse.foldl (fun v c => v * 64 + c) 0
    { x.writeAs 4 true (x.echoAt y) (le x.echoPitch v) with lyr := { x.lyr with odLines := x.lyr.odLines + 1 } }
  else x

/-- The block rows that a line begins to decode: their blocks of a reserved MODE (R160). -/
def Die.reservedLine (x : Die) (s : Option Slice) (y : Nat) : Die :=
  match s with
  | some s =>
    let n := if y % 4 = 0 then x.reservedBlocks s (y % 8 / 4) else 0
    if n = 0 then x
    else { x with tmg := { x.tmg with
        reserved := x.tmg.reserved + n, reservedSlice := if x.tmg.reserved = 0 then y / 8 else x.tmg.reservedSlice } }
  | none => x

/-- Lines by which class 2 reads are issued ahead (R226). -/
def readAhead : Nat := 16

/-- The class 2 reads of the first lines are issued with the frame start (R226) (DEDUCED, assumption 55). -/
def Die.aheadStart (x : Die) : Die :=
  { x with lyr := { x.lyr with ahead := (List.range (readAhead - 1)).map fun y => (y, x.mem.dram) } }

/-- At the start of line `n` the class 2 reads of the line that line n + 16 processes are issued (R226) (DEDUCED, assumption 55). -/
def Die.aheadLine (x : Die) (n : Nat) : Die :=
  { x with lyr := { x.lyr with ahead :=
      (x.lyr.ahead.filter fun p => n ≤ p.1 + 1) ++ [(n + readAhead - 1, x.mem.dram)] } }

/-- The die as the class 2 reads of line `y` have found it (R226). -/
def Die.lineView (x : Die) (y : Nat) : Die :=
  match x.lyr.ahead.find? (·.1 == y) with
  | some p => { x with mem := { x.mem with dram := p.2 } }
  | none => x

/-- Process line `y` (R246): the lamps of the line, from the settings as they stand now and the class 2 reads issued ahead. -/
def Die.processLine (x : Die) (y : Nat) (obs : MemObs) : Die :=
  let s := x.shownSlice (y / 8)
  let x := if y % 8 = 0 then x.wearGroup y obs else x
  let x := x.lineErrors (x.lineReads s y) obs
  let x := x.wearRestore y
  let x := match y, firstUnordered (x.lineView y).defectList with
    | 0, some i => if x.on F.corDefect then x.raise 0x97 i else x
    | _, _ => x
  let x := x.unityBlocks y
  let x := x.reservedLine s y
  let (h, x) := x.layerLine 0 y
  let (t, x) := x.layerLine 1 y
  let x := (x.flag F.hOn h).flag F.tOn t
  let use := x.lyr.odEn && x.on F.echoValid
  let v := x.lineView y
  let echo := if use then v.seen 4 true (x.echoAt y) x.echoPitch else []
  let x := if use then x.bump F.echoSkip (wordsIn x.lyr.bad (x.echoAt y, x.echoPitch)).length else x
  let off := v.offLamps y
  let lamps := (List.range x.width).map fun px => v.lamp s h t off echo px y
  let x := x.bump F.oddClip (lamps.map (·.clipped)).sum
  let x := (((x.stageLine y lamps).echoLine y lamps).wearLine y lamps).blotterLine y lamps
  if y + 1 = x.height then x.frameReports else x

/-- Times that frame timer `t` fires at line `n` (R206). -/
def Die.timerFires (x : Die) (t n : Nat) : Nat :=
  let first := x.get (F.tmFirst t)
  let step := x.get (F.tmStep t)
  let count := max 1 (x.get (F.tmCount t))
  if !x.on (F.tmEnable t) || n < first then 0
  else if step = 0 then (if n = first then 1 else 0)
  else if (n - first) % step = 0 && (n - first) / step < count then 1 else 0

/-- The frame timers at line `n` (R206): silent while RUN is 0 (R235). -/
def Die.frameTimers (x : Die) (n : Nat) : Die :=
  if x.on F.run then
    (List.range 8).foldl (fun x t =>
      (List.range (x.timerFires t n)).foldl (fun x _ => ((x.bump (F.tmFires t)).sendTriggers t).release 5 t) x) x
  else x

/-- LINE_START (R246). Line n − 1 is processed and composed in the period of line n, in which C(n − 1) lies (R259). -/
def execLineStart (d : DieId) (obs : MemObs) (s : State) : Result :=
  onDie s d fun _ x =>
    if !x.tmg.inFrame || !x.on F.scanOwn then x
    else
      let n := x.tmg.lines
      let x : Die := { x with tmg := { x.tmg with lines := n + 1 } }
      let x := ((x.put F.curLine (min n 0xFFFF)).frameTimers n).aheadLine n
      if n != 0 && n ≤ x.height then x.processLine (n - 1) obs else x

end Sys2Proof.Machine
end

