-- ==== Sys2Proof/Machine/Ldb.lean ====
section
/-! DEFINITION. The driver bus formatter (chapter 18): the scan map, enable and its conditions, GS_WRITE and LATCH, the row
slots. -/

namespace Sys2Proof.Machine

/-- Channels C per IC (LDB_CFG.CH). -/
def Die.chans (x : Die) : Nat := if x.get F.ldbCh = 0 then 16 else if x.get F.ldbCh = 1 then 24 else 48

/-- ICs N per lane (LDB_CFG.N_M1). -/
def Die.ics (x : Die) : Nat := x.get F.ldbNM1 + 1

/-- DRAM address of the map entry of lane `l`, IC `i`, channel `k` (R314). -/
def mapAt (l i k : Nat) : Nat := 0x03040000 + 4 * (3072 * l + 48 * i + k)

/-- A map entry as M5 reads it. -/
def Die.mapEntry (x : Die) (l i k : Nat) : Nat := x.seenNat 5 true (mapAt l i k) 4

/-- Column and line that entry `e` drives at row address `r`; none where VALID is 0 (R314). -/
def mapPixel (e r : Nat) : Option (Nat × Nat) :=
  if bits e 11 1 = 0 then none else some (bits e 0 11, bits e 12 12 + r * bits e 24 8)

/-- The pixels of the channels of ICs `first … first + n - 1` of a lane at row address `r`. -/
def Die.rowPixels (x : Die) (l r first n : Nat) : List (Option (Nat × Nat)) :=
  (List.range n).flatMap fun i => (List.range x.chans).map fun k => mapPixel (x.mapEntry l (first + i) k) r

/-- The pixels that a lane drives at row address `r`. -/
def Die.rowValid (x : Die) (l r : Nat) : List (Nat × Nat) := (x.rowPixels l r 0 x.ics).filterMap fun p => p

/-- Lane and row address of each GS_WRITE frame of one frame, where each frame carries all ICs of its lane (R305). -/
def Die.gsFrames (x : Die) : List (Nat × Nat) :=
  x.ldbLaneList.flatMap fun l => (List.range x.scanRatio).map fun r => (l, r)

/-- Last line minus first line plus 1; 0 without lines (R307). -/
def spanOf (ys : List Nat) : Nat :=
  match ys with
  | [] => 0
  | y :: t => t.foldl max y - t.foldl min y + 1

/-- The largest frame span of the map (R307) (DEDUCED, assumption 25). -/
def Die.mapSpan (x : Die) : Nat := (x.gsFrames.map fun f => spanOf ((x.rowValid f.1 f.2).map (·.2))).foldl max 0

/-- LEN of a GS_WRITE of `n` ICs (R303). -/
def Die.gsLen (x : Die) (n : Nat) : Nat := (n * 3 * x.chans * x.depth + 15) / 16

/-- 100 × 1.02 × 16 × Σ(LEN + 8) of a lane (R317). -/
def Die.gsLoad100 (x : Die) : Nat :=
  if x.ldbLaneList.isEmpty then 0 else 102 * 16 * x.scanRatio * (x.gsLen x.ics + 8)

/-- LDB lane rate in Mb/s (CLK_LDB_RATE). -/
def Die.laneMbps (x : Die) : Nat := [250, 400, 500, 800, 1000].getD (x.get F.ldbRate) 400

/-- The conditions of R317 in its order. -/
def Die.enableOk (x : Die) : List Bool :=
  let seg := segClamp (x.get F.segLog2)
  [x.on F.gclkRun,
   x.gsFrames.all fun f => (x.rowValid f.1 f.2).all fun p => p.1 < x.width && p.2 < x.height,
   decide (x.mapSpan < x.get F.stageLines),
   !scanTooSlow x.scanRatio seg (x.get F.gclkCur) x.rateMin,
   decide (x.gsLoad100 * 10000 ≤ 95 * 25 * x.laneMbps * (x.height + 1) * x.get F.lineCclk),
   decide (1 ≤ x.get F.addrDly) && decide (x.get F.addrDly < x.get F.offGclk) && decide (x.get F.offGclk < 2 ^ seg),
   !x.on F.wearEn || !x.stripOverlaps]

/-- Whether a register write that makes `y` of the die breaks a condition of R317 other than R313 while LDB_CTRL.EN is 1 (R318)
(DEDUCED, assumption 30). -/
def Die.breaksLdb (x y : Die) : Bool :=
  x.on F.ldbEn && [1, 2, 4, 6].any fun i => x.enableOk.getD i true && !y.enableOk.getD i true

/-- The first failing condition of R317, 1 to 7; none where all hold (DEDUCED, assumption 12). -/
def Die.enableFault (x : Die) : Option Nat := (x.enableOk.findIdx? (!·)).map (· + 1)

/-- M5 reads the map entries of `n` ICs of a lane from `first` on (R213, R219, R225): refused accesses are noted, and an
uncorrectable word once a frame. -/
def Die.mapRead (x : Die) (l first n : Nat) : Die :=
  (List.range n).foldl (fun x i =>
    let x := (x.readAs 5 true (mapAt l (first + i) 0) (4 * x.chans)).2
    let ue := (wordsIn x.mem.dramUe (mapAt l (first + i) 0, 4 * x.chans)).filter fun w => !x.lyr.bad.contains w
    let x := x.noteUe 5 ue
    { x with lyr := { x.lyr with bad := x.lyr.bad ++ ue } }) x

/-- LDB_CTRL.EN is written 1 (R317). LDB_STATUS.SPAN and LDB_LOAD show what the check has found. -/
def Die.enableLdb (x : Die) : Die :=
  if x.on F.ldbEn then x
  else
  let x := x.ldbLaneList.foldl (fun x l => x.mapRead l 0 x.ics) x
  let x := (x.put F.ldbSpan (min x.mapSpan 255)).put F.ldbLoad (min ((x.gsLoad100 + 50) / 100) 0xFFFFFFFF)
  match x.enableFault with
  | some n => x.raise 0xA0 n
  | none => x.flag F.ldbEn true

/-- LDB_CTRL.EN is written 0 (R79): the forwarded clocks stop, echo requests end without an answer, and a takeover that has
not sent RESUME is abandoned. A die that owns the scan gives it up (DEDUCED, assumption 30). -/
def Die.disableLdb (x : Die) : Die :=
  if x.on F.ldbEn then
    let own := x.on F.scanOwn
    let x := (x.frameReports.abandonTakeover.flag F.ldbEn false).flag F.echoBusy false
    let x : Die := { x with ldb := { x.ldb with
      dclk := false, requests := Vector.replicate 4 none, unknown := x.ldb.unknown || x.scanOpen
      scan := [], skip := true, sent := [] } }
    if own then
      let x := x.flag F.scanOwn false
      (({ x with
        ldb := { x.ldb with driving := false, oe := false }
        wear := { x.wear with readDone := false } }).emit .rowRelease).trimStop
    else x
  else x

/-- Write LDB_CTRL (R317, R79). -/
def Die.writeLdbCtrl (x : Die) (v : Word) (mask : Word := 0xFFFFFFFF) : Die :=
  if mask.toNat % 2 = 0 then x else if v.toNat % 2 = 1 then x.enableLdb else x.disableLdb

/-- LDB_ENABLE (R317). -/
def execLdbEnable (d : DieId) (s : State) : Result :=
  onDie s d fun _ x => if x.barOpen then x.writeLdbCtrl 1 else x

/-- LDB_DISABLE (R79). -/
def execLdbDisable (d : DieId) (s : State) : Result :=
  onDie s d fun _ x => if x.barOpen then x.writeLdbCtrl 0 else x

/-- Whether `off` is a register that R318 guards. -/
def isLdbCfg (off : Nat) : Bool := off == 0x6004 || off == 0x6008 || off == 0x600C || off == 0x6010

/-- Write LDB_CFG, LDB_LANES, LDB_SCAN or LDB_STAGE (R318): whole or not at all. -/
def Die.writeLdbCfg (x : Die) (off : Nat) (v : Word) (mask : Word := 0xFFFFFFFF) : Die :=
  let w := (x.reg off &&& ~~~mask) ||| (v &&& mask)
  let dly := bits w.toNat 16 8
  if x.keeps off v mask then x
  else if x.on F.ldbEn || (off == 0x600C && (dly == 0 || decide (bits w.toNat 8 8 ≤ dly))) then x.raise 0xAC (refusedDetail off w)
  else x.store off v mask

/-- LDB_CFG_WRITE (R318). -/
def execLdbCfgWrite (d : DieId) (off : BitVec 16) (v : Word) (s : State) : Result :=
  onDie s d fun _ x => if x.barOpen && isLdbCfg off.toNat then x.writeLdbCfg off.toNat v else x

/-- Values packed with `d` bits each, first value in the most significant bits, into `n` words with zero padding (R303). -/
def packWords (d n : Nat) (vs : List Nat) : List (BitVec 16) :=
  let big := vs.foldl (fun a v => a * 2 ^ d + v % 2 ^ d) 0 * 2 ^ (16 * n - d * vs.length)
  (List.range n).map fun j => w16 (big / 2 ^ (16 * (n - 1 - j)))

/-- Lines of the frame that have been processed, and so dithered and staged (R246, R307). -/
def Die.linesDone (x : Die) : Nat := min x.height (x.tmg.lines - 1)

/-- Whether a pixel is one that has been staged, or none that will be (R305). -/
def Die.pixelReady (x : Die) (p : Option (Nat × Nat)) : Bool :=
  match p with
  | some (px, y) => x.width ≤ px || x.height ≤ y || decide (y < x.linesDone)
  | none => true

/-- The staged values of a channel's three lamps (R303, R307): 0 without a pixel, where the map entry or the staged word is
poisoned, and under BLANK (R216, R225, R305). -/
def Die.channelValues (x : Die) (l i k r : Nat) : List Nat :=
  match mapPixel (x.mapEntry l i k) r with
  | some (px, y) =>
    if x.width ≤ px || x.height ≤ y || x.blanked || x.badRange (mapAt l i k) 4 then [0, 0, 0]
    else (List.range 3).map fun c =>
      let a := x.stageAt y + 6 * px + 2 * c
      if (wordsIn x.mem.scratchUe (a, 2)).isEmpty then x.seenNat 5 false a 2 else 0
  | none => [0, 0, 0]

/-- M5 reads the staged lamps of a list of pixels (R213, R216, R219). -/
def Die.stageRead (x : Die) (ps : List (Option (Nat × Nat))) : Die :=
  let at6 := ps.filterMap fun p => match p with
    | some (px, y) => if px < x.width && y < x.height then some (x.stageAt y + 6 * px) else none
    | none => none
  let x := at6.foldl (fun x a => (x.readAs 5 false a 6).2) x
  ((at6.flatMap fun a => wordsIn x.mem.scratchUe (a, 6)).eraseDups).foldl Die.scratchUeRaise x

/-- Whether the frame under way is sent to the panel (R305, R306). -/
def Die.ldbSends (x : Die) : Bool := x.on F.scanOwn && x.on F.ldbEn && x.tmg.inFrame && !x.ldb.skip

/-- GS_WRITE_SEND (R303, R305, R345): before frame end, one lane, one row address, ICs `first … first + nicM1`, once every lamp is dithered. -/
def execGsWriteSend (d : DieId) (lane : Fin 32) (row first nicM1 : Fin 64) (s : State) : Result :=
  onDie s d fun _ x =>
    let l := lane.val
    let r := row.val
    let n := nicM1.val + 1
    let ps := x.rowPixels l r first.val n
    let is := (List.range n).map fun i => (l, r, first.val + i)
    if x.ldbSends && !x.trim.window && bitAt (x.get F.ldbLanes) l && first.val + n ≤ x.ics && r < x.scanRatio && ps.all x.pixelReady &&
        !is.any x.ldb.sent.contains then
      let x := (x.mapRead l first.val n).stageRead ps
      let vs := (List.range n).flatMap fun i => (List.range x.chans).flatMap fun k => x.channelValues l (first.val + i) k r
      let x := x.ldbSend l 1 first.val r false nicM1.val x.ldb.bank (packWords x.depth (x.gsLen n) vs)
      { x with ldb := { x.ldb with sent := x.ldb.sent ++ is } }
    else x

/-- Whether every grayscale value of the frame has been sent (R305). -/
def Die.allSent (x : Die) : Bool :=
  x.gsFrames.all fun f => (List.range x.ics).all fun i => x.ldb.sent.contains (f.1, f.2, i)

/-- LATCH_SEND (R305): after the frame's last GS_WRITE. Its time outside the 2 µs before a scan-cycle start is asserted by the
command's coming. -/
def execLatchSend (d : DieId) (s : State) : Result :=
  onDie s d fun _ x =>
    if x.ldbSends && x.allSent && x.ldb.latched != x.ldb.bank then
      let x := x.ldbAll 2 (x.scanWords x.ldb.bank)
      { x with ldb := { x.ldb with latched := x.ldb.bank, latchPending := true } }
    else x

/-- A row slot starts (R311): ROW_OE low, then the new ROW_ADDR, then ROW_OE high. The panel takes a pending LATCH at the start
of a scan cycle (R312). -/
def Die.rowSlot (x : Die) : Die :=
  let new := if x.ldb.oe then (x.ldb.row + 1) % x.scanRatio else 0
  let x := ((x.emit (.row x.ldb.row false)).emit (.row new false)).emit (.row new true)
  let l := { x.ldb with row := new, oe := true, driving := true }
  { x with ldb :=
    if new = 0 && l.latchPending then { l with shown := l.latched, latchPending := false } else l }

/-- SEGMENT_BOUNDARY (R83, R311): a pending segment length takes effect, and a die that owns the scan starts a row slot. -/
def execSegmentBoundary (d : DieId) (s : State) : Result :=
  onDie s d fun _ x =>
    if x.on F.gclkRun then
      let x := { x with clk := { x.clk with seg := segClamp (x.get F.segLog2) } }
      if x.on F.scanOwn then x.rowSlot else x
    else x

end Sys2Proof.Machine
end

