-- ==== Sys2Proof/Machine/Sillage.lean ====
section
/-! DEFINITION. Sillage (chapter 19): the hand-off and deep entry as commands, echo replies (R309, R310), the takeover (R331–
R333), and what a takeover waits for: the identity record and GCLK. -/

namespace Sys2Proof.Machine

/-- SILLAGE_IDLE_TIMEOUT (R174, R321). A settled frame that waits at a JOINED die would clear the cause at once. -/
def execSillageIdleTimeout (d : DieId) (s : State) : Result :=
  onDie s d fun _ x =>
    if x.get F.idleMs != 0 && (x.power == .active || x.power == .relay || x.power == .deep) &&
        !(x.get F.join == 4 && x.frameWaits) then
      let x : Die := { x with sti := { x.sti with idleCut := x.on F.cutOff } }
      (x.flag F.silIdle true).causeCame
    else x

/-- SILLAGE_HANDOFF (R322): at the first frame end after a cause, also where the causes have cleared since (collisions of chapter 19)
(DEDUCED, assumption 11). -/
def execSillageHandoff (d : DieId) (s : State) : Result :=
  onDie s d fun _ x =>
    if x.power = .active && x.handoffDue && (!x.tmg.inFrame || x.trim.window) then x.normalHandoff else x

/-- Whether the store engine writes a ledger part (R282). -/
def StoreOp.flushing : StoreOp → Bool
  | .part _ _ _ _ _ => true
  | .idle | .program _ _ _ | .erase _ _ | .refresh _ _ _ => false

/-- Whether the die may go on towards SILLAGE-DEEP (R326): a takeover that has sent RESUME completes first (collisions of chapter
19). -/
def Die.deepHolds (x : Die) : Bool := x.power == .relay && x.deepAllowed && x.quiet && x.takeover != .resumed

/-- Steps 4–6 of R327, with the re-target pass abandoned (R272). -/
def Die.enterDeep (x : Die) : Die :=
  let x := ({ x with power := .deep }.dmaDeep.abortPass 3).flag F.selfRefresh true
  (if x.on F.qEnable then x.sleepLanes else x).raise 0x0B

/-- SILLAGE_DEEP_ENTRY (R326, R327). While R326 holds, the first arrival sets LEAVING. After three SYNC periods the channels with a
DRAM side end with the unit that runs, and the die is deep at the first arrival at which none has one and no wear flush is in
progress. Where R326 no longer holds, the die stops leaving (DEDUCED, assumption 11). -/
def execSillageDeepEntry (d : DieId) (s : State) : Result :=
  onDie s d fun _ x =>
    if x.deepHolds then
      if !x.acd.leaving then { x with acd := { x.acd with leaving := true }, leaveSyncs := 0 }
      else if x.leaveSyncs < 3 then x
      else if x.dmaDramBusy || x.cst.op.flushing then x.dmaDeep
      else x.enterDeep
    else if x.power = .relay then { x with acd := { x.acd with leaving := false } }
    else x

/-- DRYDOWN_FORWARD_END (R334): the die stops forwarding and serving the host (DEDUCED, assumption 37). -/
def execDrydownForwardEnd (d : DieId) (s : State) : Result :=
  onDie s d fun _ x =>
    if x.power = .drydown && x.forwarding then
      { x with forwarding := false, hif := { x.hif with fetched := [], polling := false, fetching := 0 } }.flag F.hifRunning false
    else x

/-- The echo request outstanding in a group. -/
def Die.echo (x : Die) (g : Nat) : Option EchoReq := x.ldb.requests.toList.getD g none

/-- Set a group's request; ECHO_BUSY follows. -/
def Die.setEcho (x : Die) (g : Nat) (r : Option EchoReq) : Die :=
  let x : Die := { x with ldb := { x.ldb with requests := x.ldb.requests.setIfInBounds g r } }
  x.flag F.echoBusy (x.ldb.requests.toList.any (·.isSome))

/-- Send a STATUS_READ (R303, R310). -/
def Die.askIc (x : Die) (lane addr : Nat) (retried : Bool) : Die :=
  (x.setEcho (lane / 8) (some ⟨lane, addr, retried⟩)).ldbSend lane 4 addr 0 false 0 0 []

/-- The next IC that a DEFECT_SCAN asks in a group (R278, R310). -/
def Die.echoNext (x : Die) (g : Nat) : Die :=
  if (x.echo g).isSome then x
  else match x.ldb.scan.find? fun q => q.1 / 8 == g with
    | some q => { x with ldb := { x.ldb with scan := x.ldb.scan.erase q } }.askIc q.1 q.2 false
    | none => x

/-- A takeover fails (R333): the panel keeps holding (DEDUCED, assumption 25). -/
def Die.takeoverFail (x : Die) : Die :=
  { x with takeover := .failed, ldb := { x.ldb with dclk := false } }.flag F.silTakeover false

/-- Both tries of a request have failed (R310, R333). -/
def Die.echoLost (x : Die) (g : Nat) : Die :=
  let x := x.setEcho g none
  if x.takeover = .asked then (x.raise 0xAA 1).takeoverFail
  else { x with ldb := { x.ldb with unknown := true } }.echoNext g

/-- A request has failed once or twice (R310) (DEDUCED, assumption 25). -/
def Die.echoAgain (x : Die) (g : Nat) (r : EchoReq) : Die :=
  if r.retried then x.echoLost g else x.askIc r.lane r.addr true

/-- The scan cycle and the TE period agree within ±3 % (R332). -/
def Die.teAgrees (x : Die) : Bool :=
  let cycle : Int := x.scanRatio * 2 ^ x.clk.seg * 2 ^ 24
  ((x.get F.tePeriod * x.get F.gclkCur : Nat) - cycle).natAbs * 100 ≤ 3 * cycle.toNat

/-- Steps 2 and 3 of R332: the scan cycle is compared, which is left out while TE is lost, and RESUME goes out on every enabled
lane. -/
def Die.resume (x : Die) : Die :=
  if x.on F.teOk && !x.teAgrees then (x.raise 0xAB (x.get F.tePeriod)).takeoverFail
  else { x.ldbAll 6 [] with takeover := .resumed }

/-- The scan master's reply at a takeover (R332, R333). -/
def Die.takeoverReply (x : Die) (st0 : Nat) : Die :=
  if bitAt st0 15 then x.resume else (x.raise 0xAA 2).takeoverFail

/-- Words of OPEN or SHORT in a reply (R309). -/
def Die.flagWords (x : Die) : Nat := (3 * x.chans + 15) / 16

/-- Whether a reply with `n` payload words has its form and passes CVU-D (R309, R310). -/
def Die.replyOk (x : Die) (n : Nat) (ws : List (BitVec 16)) : Bool :=
  decide (ws.length = 5 + n) && ws.getLast? == some (ldbCheck (cvuSel x 2) ((ws.drop 1).dropLast))

/-- What has come of one transmission of an echo request (R310). -/
inductive EchoEnd where
  | good
  | bad
  | silent
deriving DecidableEq, Repr

/-- DRIVER_REPORT, and the bank that the IC displays (R309, R310). -/
def Die.driverReport (x : Die) (g : Nat) (ws : List (BitVec 16)) : Die :=
  let st0 := (ws.getD 1 0).toNat
  let st1 := (ws.getD 2 0).toNat
  let x := x.put F.heldBank (bits st0 13 2)
  if st0 &&& 0x1C00 = 0 then x
  else x.raiseLim msCclk g 0xA7 (st0 + 2 ^ 16 * bits st1 10 6 + 2 ^ 24 * (8 * g + bits st1 7 3))

/-- The words that answer a request of lane `l` with `n` payload words are checked and alive-tested, with what is counted and raised;
words that do not begin with SYNC are no frame (R300, R309, R310, R346). -/
def Die.echoTest (x : Die) (l n : Nat) (r : Option (List (BitVec 16))) : EchoEnd × Die :=
  let g := l / 8
  match r.filter (·.head? == some 0xA5C3) with
  | none => (.silent, (x.bump F.echoTo).raiseLim msCclk g 0xA1)
  | some ws =>
    if x.replyOk n ws then
      match (x.bump (F.cvuPass 2)).alive 2 (.ldb (Fin.ofNat 32 l)) (ws.getD (ws.length - 2) 0) with
      | (.repeated, x) => (.bad, (x.bump F.echoRepeat).raiseLim msCclk g 0xA3)
      | (_, x) => (.good, x.driverReport g ws)
    else (.bad, ((x.bump (F.cvuFail 2)).bump F.echoFail).raiseLim msCclk g 0xA2)

/-- A good STATUS_READ reply (R309, R310). -/
def Die.takeReply (x : Die) (g : Nat) (r : EchoReq) (ws : List (BitVec 16)) : Die :=
  let x := x.setEcho g none
  if x.takeover = .asked then x.takeoverReply (ws.getD 1 0).toNat
  else
    let n := x.flagWords
    let x : Die := { x with ldb := { x.ldb with
      flags := x.ldb.flags ++ [(r.lane, r.addr, (ws.drop 3).take n, (ws.drop (3 + n)).take n)] } }
    x.echoNext g

/-- ECHO_REPLY_RECEIVE (R309, R310, R332, R333). Words that do not begin with SYNC are received as no frame (R300). -/
def execEchoReplyReceive (d : DieId) (g : Group) (words : List (BitVec 16)) (s : State) : Result :=
  onDie s d fun _ x =>
    match x.echo g.val with
    | none => x
    | some r =>
      if words.head? != some 0xA5C3 then x
      else match x.echoTest r.lane (2 * x.flagWords) (some words) with
        | (.good, x) => x.takeReply g.val r words
        | (_, x) => x.echoAgain g.val r

/-- LDB_ECHO_TIMEOUT (R310). -/
def execLdbEchoTimeout (d : DieId) (g : Group) (s : State) : Result :=
  onDie s d fun _ x =>
    match x.echo g.val with
    | none => x
    | some r => (x.echoTest r.lane 0 none).2.echoAgain g.val r

/-- The conditions of a takeover but for the identity record and GCLK (R331). -/
def Die.takeoverReady (x : Die) : Bool :=
  ((x.power == .relay && !x.causeStands) || (x.power == .active && !x.on F.scanOwn)) && x.on F.run && x.on F.ldbEn &&
    x.get F.join == 4 && x.frameWaits

/-- Step 1 of R332: DCLK, two IDLE words, STATUS_READ to the scan master on lane 0. -/
def Die.takeoverAsk (x : Die) : Die :=
  ({ x with takeover := .asked, ldb := { x.ldb with dclk := true } }.flag F.silTakeover true).askIc 0 (x.get F.smAddr) false

/-- GCLK is started for a takeover at CLK_GCLK_NEXT.FWORD (R331), if one has been stored. -/
def Die.takeoverClock (x : Die) : Die :=
  if !x.on F.gclkRun && x.clk.phase = .none && x.get F.gclkNext != 0 then x.gclkLock (x.get F.gclkNext) none else x

/-- A takeover goes on as far as its conditions let it (R331): the identity record, GCLK, then STATUS_READ. `clock` says whether
it may start GCLK. -/
def Die.takeoverOn (x : Die) (clock : Bool) : Die :=
  if x.takeover != .waiting then x
  else if !x.takeoverReady then x.abandonTakeover
  else if x.wear.reading.isSome then x
  else if !x.wear.readDone then x.identityStart
  else if x.on F.gclkRun && x.get F.gclkCur = x.get F.gclkNext then x.takeoverAsk
  else if clock then x.takeoverClock
  else x

/-- TAKEOVER_START (R331). The identity record is read at each exit and adoption (R284). -/
def execTakeoverStart (d : DieId) (s : State) : Result :=
  onDie s d fun _ x =>
    match x.takeover with
    | .none =>
      if x.takeoverReady then
        { x with takeover := .waiting, wear := { x.wear with readDone := false } }.takeoverOn true
      else x
    | .waiting => x.takeoverOn false
    | .asked | .resumed | .failed => x

/-- TAKEOVER_RETRY (R333). -/
def execTakeoverRetry (d : DieId) (s : State) : Result :=
  onDie s d fun _ x => if x.takeover = .failed then { x with takeover := .waiting }.takeoverOn true else x

/-- GCLK_START_RETRY (R333): the start of GCLK for a takeover has failed to lock. -/
def execGclkStartRetry (d : DieId) (s : State) : Result :=
  onDie s d fun _ x => if x.takeover = .waiting && x.wear.readDone then x.takeoverOn true else x

/-- IDENTITY_READ_DONE (R284, R285, R319, R331). -/
def execIdentityReadDone (d : DieId) (r : IdRead) (s : State) : Result :=
  onDie s d fun _ x => (x.identityDone r).takeoverOn true

/-- GCLK_SETTLE_DONE (R83 step 3, R86, R331). -/
def execGclkSettleDone (d : DieId) (s : State) : Result :=
  onDie s d fun _ x =>
    if x.clk.phase = .settling then ({ x with clk := { x.clk with phase := .waiting } }.gclkStart).takeoverOn false else x

/-- GCLK_SWITCH (R83 steps 5 and 6, R313, R331). The row slot that starts at this boundary is SEGMENT_BOUNDARY's.
(DEDUCED, assumption 11). -/
def execGclkSwitch (d : DieId) (s : State) : Result :=
  onDie s d fun _ x =>
    if x.clk.phase = .waiting && x.on F.gclkRun then (x.gclkDone (1 - x.get F.gclkSyn)).takeoverOn false else x

/-- Steps 4 and 5 of R332: the die drives ROW_OE low and ROW_ADDR 0 (R316), owns the scan and enters ACTIVE; the first frame then starts
by R245, with the echo frame invalid (R291). A die in DRYDOWN hands off again at once (collisions of chapter 19).
(DEDUCED, assumption 11; DEDUCED, assumption 37). -/
def Die.scanTake (x : Die) : Die :=
  let bank := x.get F.heldBank
  let x := x.freshStart
  let x : Die := { x with
    takeover := .none
    lyr := { x.lyr with odLines := 0 }
    ldb := { x.ldb with
      bank := bank, latched := bank, shown := bank, latchPending := false, skip := true, sent := [], row := 0, oe := false
      driving := true }
    acd := { x.acd with leaving := x.power == .drydown } }
  let x := ((x.flag F.scanOwn true).flag F.echoValid false).flag F.silTakeover false
  let x := ((x.emit (.row 0 false)).raise 0x0A bank).bump F.takeovers
  if x.power = .drydown then x.normalHandoff else { x with power := .active }.trimNext

/-- TAKEOVER_UNALIGNED (R249, R333): TE is lost. -/
def execTakeoverUnaligned (d : DieId) (s : State) : Result :=
  onDie s d fun _ x => if x.takeover = .resumed && !x.on F.teOk then x.scanTake else x

end Sys2Proof.Machine
end

