-- ==== Sys2Proof/Machine/Trim.lean ====
section
/-! DEFINITION. The trim steps (chapter 21): DESKEW, THRESH and RXOFF by lane or input, IREF, and the runs that start or fail to
start by themselves. -/

namespace Sys2Proof.Machine

/-- Die temperature in 0.25 °C, as PWR_TEMP.DIE gives it. -/
def Die.dieTemp (x : Die) (c : Ctx) : Int :=
  toSigned 16 (match x.id with | .W => c.mod.meas.dieW | .E => c.mod.meas.dieE).toNat

/-- `n` bits of PRBS-7, x^7 + x^6 + 1, from register `r` on, as a number whose first bit is the most significant (R103, R346). -/
def prbs7 : Nat → Nat → Nat → Nat
  | 0, _, acc => acc
  | n + 1, r, acc =>
    let b := bits r 6 1 ^^^ bits r 5 1
    prbs7 n (r % 64 * 2 + b) (acc * 2 + b)

/-- The payload of a DESKEW probe: 16 words of PRBS-7 with seed 0x7F (R346). -/
def deskewPay : List (BitVec 16) := (List.range 16).map fun j => w16 (prbs7 256 0x7F 0 / 2 ^ (16 * (15 - j)))

/-- The payload of a THRESH probe (R347). -/
def threshPay : List (BitVec 16) := List.replicate 16 0xFF00

/-- The IC that a lane's probes go to (R346). -/
def Die.probeIc (x : Die) : Nat := min (x.get F.deskewIc) (x.get F.ldbNM1)

/-- One ECHO_TRAIN probe of lane `l` with payload `pay` (R310, R346): whether its reply is valid and gives the payload back. A
transmission that fails is sent once more, one without an answer only where `again` has it; `rs` answers them in turn. -/
def Die.trainProbe (x : Die) (l : Nat) (pay : List (BitVec 16)) (again : Bool) (rs : Replies) : Bool × Die :=
  let send (x : Die) : Die := x.ldbSend l 5 x.probeIc 0 false 0 0 pay
  let gives (i : Nat) : Bool := (((rs.getD i none).getD []).drop 3).take pay.length == pay
  match (send x).echoTest l pay.length (rs.getD 0 none) with
  | (.good, x) => (gives 0, x)
  | (e, x) =>
    if e == .silent && !again then (false, x)
    else match (send x).echoTest l pay.length (rs.getD 1 none) with
      | (.good, x) => (gives 1, x)
      | (_, x) => (false, x)

/-- The probes of `n` taps in turn: the taps that pass, as a mask. -/
def Die.trainTaps (x : Die) (l n : Nat) (pay : List (BitVec 16)) (again : Bool) (probes : List Replies) : Nat × Die :=
  (List.range n).foldl (fun (m, x) t =>
    let r := Die.trainProbe x l pay again (probes.getD t [])
    (if r.1 then m + 2 ^ t else m, r.2)) (0, x)

/-- The longest run of set bits among the lowest `n`, as (length, first bit); the lowest of equals. -/
def longestRun (m : Nat) : Nat → Nat × Nat
  | 0 => (0, 0)
  | n + 1 =>
    let run := ((List.range (n + 1)).reverse.takeWhile fun i => bitAt m i).length
    let best := longestRun m n
    if best.1 < run then (run, n + 1 - run) else best

/-- What the step has found for lane or input `i`: taps, and how many of its lines or samplers have failed. -/
def Die.trimFound (x : Die) (i : Nat) (taps : List (Nat × Nat)) (fails : Nat) : Die :=
  { x with trim := { x.trim with
      pos := x.trim.pos + 1, bad := x.trim.bad ++ List.replicate fails i, tap := x.trim.tap ++ taps } }

/-- DESKEW of one lane (R346) (DEDUCED, assumption 26). -/
def Die.deskewStep (x : Die) (l : Nat) (probes : List Replies) : Die :=
  let (good, x) := x.trainTaps l 64 deskewPay false probes
  let (n, first) := longestRun good 64
  x.trimFound l [(l, (2 * first + n - 1) / 2)] (if 8 ≤ n then 0 else 1)

/-- The inputs that THRESH trims: the ECHO inputs of groups with an enabled lane, and TE as number 4 (R347). -/
def Die.threshInputs (x : Die) : List Nat := ((List.range 4).filter fun g => x.ldbLaneList.any fun l => l / 8 == g) ++ [4]

/-- THRESH of one input (R347) (DEDUCED, assumption 26). -/
def Die.threshStep (x : Die) (i : Nat) (probes : List Replies) (low high : BitVec 32) : Die :=
  let x := match x.ldbLaneList.find? fun l => l / 8 == i with
    | some l => (x.trainTaps l 32 threshPay true probes).2
    | none => x
  let lo := (List.range 32).find? fun t => bitAt low.toNat t
  let hi := (List.range 32).reverse.find? fun t => bitAt high.toNat t
  match lo, hi with
  | some l, some h => x.trimFound i [(i, (l + h) / 2)] (if l + 6 ≤ h then 0 else 1)
  | _, _ => x.trimFound i [] 1

/-- RXOFF of one in-lane (R348): the taps at which its samplers split evenly are the part's own. The lane is out of traffic to
the next CC slot (DEDUCED, assumption 26). -/
def Die.rxoffStep (x : Die) (k : Lane) (data offset : Bool) : Die :=
  let x := (x.setLane k { x.lane k with slipped := true }).updDouble
  let t (i : Nat) : Nat := Config.freeNat (x.free + i) % 64
  { x with free := x.free + 2 }.trimFound k.val [(2 * k.val, t 0), (2 * k.val + 1, t 1)] (b2n (!data) + b2n (!offset))

/-- Whether all four in-lanes are ACTIVE (R348). -/
def Die.lanesActive (x : Die) : Bool := lanesAll.all fun k => x.laneSt k == 6

/-- Accord time now and T_min in 1/18 ns. -/
def Die.now18 (x : Die) : Nat := x.acd.time * 18 / 2 ^ 32
def period18 (r : Nat × Nat) : Nat := 18000000000 * r.2 / r.1
def Die.tMin (x : Die) : Nat := period18 x.rateMin

/-- Whether the window of the last frame is open: from its end to 2.5 ns before the first start that may follow (R345). -/
def Die.windowOpen (x : Die) : Bool :=
  x.trim.window && (match x.tmg.lastStart with | some a => decide (x.now18 + 45 ≤ a + x.tMin) | none => true)

/-- Whether a step that needs a window has one; RXOFF needs none in SILLAGE-RELAY or with RUN at 0 (R345). -/
def Die.inWindowNow (x : Die) (kind : Nat) : Bool :=
  x.windowOpen || (kind == 2 && (x.power == .relay || !x.on F.run))

/-- The end of the kind at work, where its last step is done. -/
def Die.trimLast (x : Die) (kind n : Nat) (temp : Int) : Die := if n ≤ x.trim.pos then x.trimKindDone kind temp else x

/-- TRIM_STEP_DONE (R345–R348). -/
def execTrimStepDone (d : DieId) (r : TrimResult) (s : State) : Result :=
  onDie s d fun c x =>
    let temp := x.dieTemp c
    match x.trimHead, r with
    | some 0, .deskew probes =>
      if x.on F.scanOwn && x.inWindowNow 0 then
        match x.ldbLaneList[x.trim.pos]? with
        | some l =>
          if (x.echo (l / 8)).isNone then (x.deskewStep l probes).trimLast 0 x.ldbLaneList.length temp else x
        | none => x.trimKindDone 0 temp
      else x
    | some 1, .thresh probes low high =>
      match x.threshInputs[x.trim.pos]? with
      | some i =>
        if x.on F.scanOwn && (i == 4 || (x.inWindowNow 1 && (x.echo i).isNone)) then
          (x.threshStep i probes low high).trimLast 1 x.threshInputs.length temp
        else x
      | none => x.trimKindDone 1 temp
    | some 2, .rxoff data offset =>
      if x.lanesActive && x.inWindowNow 2 then (x.rxoffStep (Fin.ofNat 4 x.trim.pos) data offset).trimLast 2 4 temp else x
    | _, _ => x

/-- The IREF code of the command and the measured taps take effect (R349) (DEDUCED, assumption 26). -/
def Die.irefApply (x : Die) (temp : Int) : Die :=
  (({ x with trim := { x.trim with irefDue := false } }.put F.irefCode x.trim.code).emit (.iref x.trim.code)).trimKindDone 3 temp

/-- IREF_MEASURE_DONE (R349): the taps are the part's own. -/
def execIrefMeasureDone (d : DieId) (inReach : Bool) (s : State) : Result :=
  onDie s d fun c x =>
    if x.trimHead = some 3 && !x.trim.irefDue then
      if inReach then
        let t (i : Nat) : Nat := Config.freeNat (x.free + i) % 64
        let x : Die := { x with
          free := x.free + 2, trim := { x.trim with irefDue := true, tap := [(0, t 0), (1, t 1)] } }
        if x.power = .relay then x.irefApply (x.dieTemp c) else x
      else { x with trim := { x.trim with bad := [0] } }.trimKindDone 3 (x.dieTemp c)
    else x

/-- TRM_CFG.DELTA as it acts, in 0.25 °C. -/
def Die.trimDelta (x : Die) : Int := 4 * (max 2 (min 20 (x.get F.trmDelta)) : Nat)

/-- Whether kind `k` is due by itself (R351): it has never run, or the die's temperature has moved by more than DELTA. -/
def Die.trimMoved (x : Die) (k : Nat) (temp : Int) : Bool :=
  x.get (trimKind k) == 0 ||
    decide (x.trimDelta < ((temp - 4 * toSigned 8 (x.get (trimTemp k))).natAbs : Int))

/-- TRIM_AUTO (R351). A kind that the run under way still has to do does not run a second time. -/
def execTrimAuto (d : DieId) (k : Fin 3) (s : State) : Result :=
  onDie s d fun c x =>
    if bitAt (x.get F.trmAuto) k.val && x.trimMoved k.val (x.dieTemp c) && !x.trim.todo.contains k.val &&
        x.power != .deep && x.power != .drydown then
      { x with trim := { x.trim with due := x.trim.due ||| 2 ^ k.val } }.trimNext
    else x

/-- TRIM_WAIT (R352): raised once for the kind at work. -/
def execTrimWait (d : DieId) (k : Fin 3) (s : State) : Result :=
  onDie s d fun _ x =>
    if x.trimHead = some k.val && !x.trim.waitRaised then
      { x with trim := { x.trim with waitRaised := true } }.raise 0xC2 (2 ^ k.val)
    else x

/-- TRM_STATUS.WAITING: the kind at work waits for its window or its lanes. -/
def Die.trimWaits (x : Die) : Bool :=
  match x.trimHead with
  | some 0 => !(x.on F.scanOwn && x.inWindowNow 0)
  | some 1 => !(x.on F.scanOwn && (x.inWindowNow 1 || x.threshInputs[x.trim.pos]? == some 4))
  | some 2 => !(x.lanesActive && x.inWindowNow 2)
  | _ => false

/-- TRIM_START_TIMEOUT (R350): the command completes with BUSY, with the kinds that have passed and those that were not run.
(DEDUCED, assumption 26). -/
def execTrimStartTimeout (d : DieId) (s : State) : Result :=
  onDie s d fun _ x =>
    match x.hif.trim with
    | none => x
    | some j =>
      if x.trim.todo.isEmpty then x
      else if x.trim.auto then
        { x with hif := { x.hif with trim := none } }.completeJob j 0x05 (16 * (natAt j.args 0 1 % 16))
      else if x.trim.pos = 0 && !x.trim.irefDue then
        (List.range x.trim.todo.length).foldl (fun x _ => x.trimMiss false) x
      else x

end Sys2Proof.Machine
end

