-- ==== Sys2Proof/Machine/Raster.lean ====
section
/-! DEFINITION. The raster (chapter 14): RUN, raster and mode, the start schedule and the frame starts with what they sample,
frame end and the Blotter's comparison (chapter 20), and TE. -/

namespace Sys2Proof.Machine

/-- TMG_PLACE and TMG_LINE follow the raster (R235, R238). -/
def Die.updRaster (x : Die) : Die :=
  ((x.put F.placeQ (placeSize x.slices)).put F.placeNs x.slices).put F.lineCclk (lineCclkOf x.rateMin (x.get F.vTotal))

/-- TMG_CTRL.RUN is written 1 (R235, R245, R284, R291). -/
def Die.runOn (x : Die) : Die :=
  if x.on F.run then x
  else if !rasterOk x.width x.height (x.get F.vTotal) (x.get F.modeId) then x.raise 0x87 (refusedDetail 0x4000 1)
  else
    let read := (!x.on F.runSeen || !x.on F.recordOk) && x.wear.reading.isNone
    let x := (((x.flag F.run true).flag F.runSeen true).flag F.tmgRunning true).flag F.echoValid false
    let x := { x with lyr := { x.lyr with odLines := 0 } }.freshStart
    if read then x.identityStart else x

/-- TMG_CTRL.RUN is written 0 (R235). -/
def Die.runOff (x : Die) : Die :=
  { ((x.flag F.run false).flag F.tmgRunning false).flag F.tmgWaiting false with tmg := { x.tmg with due := none } }

/-- Write TMG_CTRL (R235). -/
def Die.writeRun (x : Die) (v : Word) (mask : Word := 0xFFFFFFFF) : Die :=
  if mask.toNat % 2 = 0 then x else if v.toNat % 2 = 1 then x.runOn else x.runOff

/-- RUN_SET (R235). -/
def execRunSet (d : DieId) (s : State) : Result := onDie s d fun _ x => if x.barOpen then x.writeRun 1 else x

/-- RUN_CLEAR (R235). -/
def execRunClear (d : DieId) (s : State) : Result := onDie s d fun _ x => if x.barOpen then x.writeRun 0 else x

/-- Write TMG_ACTIVE or TMG_VTOTAL (R235): only while RUN is 0, and not where it breaks a condition of R317 (R318) (DEDUCED,
assumption 30). -/
def Die.writeRaster (x : Die) (off : Nat) (v : Word) (mask : Word := 0xFFFFFFFF) : Die :=
  if x.keeps off v mask then x
  else
    let y := (x.store off v mask).updRaster
    if x.on F.run || x.breaksLdb y then x.raise 0x87 (refusedDetail off ((x.reg off &&& ~~~mask) ||| (v &&& mask)))
    else y.updLoad

/-- TMG_RASTER_WRITE (R235). -/
def execTmgRasterWrite (d : DieId) (off : BitVec 16) (v : Word) (s : State) : Result :=
  onDie s d fun _ x =>
    if x.barOpen && (off.toNat == 0x4004 || off.toNat == 0x400C) then x.writeRaster off.toNat v else x

/-- Whether a TMG_MODE value is refused (R237). -/
def Die.modeBad (x : Die) (w : Word) : Bool :=
  match modeRate (bits w.toNat 16 5), modeRate (bits w.toNat 0 5) with
  | some m, some s =>
    (bitAt w.toNat 8 && decide (m.1 * s.2 < s.1 * m.2)) ||
      (x.on F.run && !rasterOk x.width x.height (x.get F.vTotal) (bits w.toNat 16 5))
  | _, _ => true

/-- Write TMG_MODE (R237): LINE_CCLK follows at once while RUN is 0, and at the next frame start while it is 1. A write that breaks a
condition of R317 is refused (R318) (DEDUCED, assumption 30). -/
def Die.writeMode (x : Die) (v : Word) (mask : Word := 0xFFFFFFFF) : Die :=
  let w := (x.reg 0x4008 &&& ~~~mask) ||| (v &&& mask)
  if x.keeps 0x4008 v mask then x
  else if x.modeBad w || x.breaksLdb (x.store 0x4008 v mask).updRaster then x.raise 0x87 (refusedDetail 0x4008 w)
  else
    let x := x.store 0x4008 v mask
    (if x.on F.run then x else x.updRaster).updLoad

/-- TMG_MODE_WRITE (R237). -/
def execTmgModeWrite (d : DieId) (v : Word) (s : State) : Result :=
  onDie s d fun _ x => if x.barOpen then x.writeMode v else x

/-- T_max in 1/18 ns. -/
def Die.tMax (x : Die) : Nat := period18 x.rateMax

/-- The number of the displayed frame; none before the first. -/
def Die.shownNo (x : Die) : Option Nat := (x.buf x.tmg.display).frame

/-- Deadlines of frames above the last selected one, which a JOINED die may select (R23, R241). -/
def Die.candidates (x : Die) : List Deadline :=
  if x.get F.join = 4 then
    x.acd.deadlines.filter fun d => match x.tmg.lastFrame with | some l => decide (l < d.frame) | none => true
  else []

/-- The highest-numbered frame eligible at `t` (R241). -/
def Die.eligibleAt (x : Die) (t : Nat) : Option Nat :=
  ((x.candidates.filter fun d => 18 * d.time ≤ t).map (·.frame)).foldl (fun m f => some (max f (m.getD 0))) none

/-- Frames passed over by frame `f` (R243): those with a deadline, above the shown one and below `f`, are counted as dropped,
and their deadlines are forgotten (DEDUCED, assumption 27). -/
def Die.passOver (x : Die) (f : Nat) : Die :=
  let n := match x.shownNo with
    | some k => (x.acd.deadlines.filter fun d => k < d.frame && d.frame < f).length
    | none => 0
  let x : Die := { x with
    acd := { x.acd with deadlines := x.acd.deadlines.filter fun d => f ≤ d.frame }
    tmg := { x.tmg with nDrop := x.tmg.nDrop + n } }
  if n = 0 then x
  else
    let go := x.limitOpen secCclk 0 0x82
    let x := (x.bump F.tmgDrop n).raiseLim secCclk 0 0x82 (min x.tmg.nDrop 0xFFFF)
    if go then { x with tmg := { x.tmg with nDrop := 0 } } else x

/-- Buffers of frames below `f` other than the displayed and the pending one are free; a die without a pending slot takes one of
them (R240). -/
def Die.freeBelow (x : Die) (f : Nat) : Die :=
  let x := bufNumbers.foldl (fun x b =>
    match (x.buf b).frame with
    | some n => if n < f && b != x.tmg.display && b != x.tmg.pending then x.setBuf b .free else x
    | none => x) x
  if x.tmg.pending < 4 then x else { x with tmg := { x.tmg with pending := x.freeBuf.getD 4 } }

/-- The buffer that holds frame `f` settled, at both dies while the stitch is UP (R169, R242). -/
def Die.settledAt (x : Die) (f : Nat) : Option Nat :=
  let peer := !x.stitchUp || (match x.sti.peerSettled with | some p => decide (f ≤ p) | none => false)
  match x.bufOf f with
  | some b => if (x.buf b).settled && peer then some b else none
  | none => none

/-- The nominal start at `t` selects frame `f`, or a repeat (R241, R243). -/
def Die.selectFrame (x : Die) (t : Nat) (f : Option Nat) (excess : Bool) : Die :=
  let x : Die := { x with tmg := { x.tmg with
    lastNominal := some t, due := some ⟨t, f, excess⟩, lastFrame := match f with | some n => some n | none => x.tmg.lastFrame } }
  match f with
  | some n =>
    let x := x.passOver n
    if (x.settledAt n).isSome then x.freeBelow n else x
  | none => x

/-- The lattice point of a fixed mode that falls due now: the next one after the last nominal start, and none that is past; a
leader decides up to 160 ns ahead (R169, R237, R241). -/
def Die.fixedPoint (x : Die) : Nat :=
  let r := x.rateMin
  let now := (x.now18 + 2880) / 18
  let k := now * r.1 / (1000000000 * r.2)
  let past := if lattice r k ≤ now then lattice r k else lattice r (k - 1)
  match x.tmg.lastNominal with
  | some n => 18 * max past (lattice r (latticeIndex r (n / 18 + 1)))
  | none => 18 * past

/-- N of the schedule (R241, R245). -/
def Die.lastN (x : Die) : Option Nat :=
  match x.tmg.lastNominal with
  | some n => some n
  | none => x.tmg.firstN.map (18 * ·)

/-- The time after which a frame repeats (R241): T_max; at a cut-off die the period in use when the stitch went down (R174). -/
def Die.repeatAfter (x : Die) : Nat :=
  if x.on F.cutOff && x.sti.holdPeriod != 0 then min x.tMax (max x.tMin x.sti.holdPeriod) else x.tMax

/-- Variable mode (R241): the excess, deadline and repeat cases from N. -/
def Die.variableStart (x : Die) (n : Nat) : Die :=
  let bound := n + x.tMin - 45
  let last := n + x.repeatAfter
  match x.eligibleAt bound with
  | some _ =>
    let t := min (18 * lattice x.rateMin (latticeIndex x.rateMin ((bound + 17) / 18))) last
    x.selectFrame t (x.eligibleAt t) true
  | none =>
    match ((x.candidates.filter fun d => 18 * d.time ≤ last).map (·.time)).min? with
    | some p => x.selectFrame (18 * p) (x.eligibleAt (18 * p)) false
    | none => x.selectFrame last none false

/-- Whether frames may start at the die: RUN, ACTIVE, and the scan (R235, R321, R331). -/
def Die.framesRun (x : Die) : Bool := x.on F.run && x.power == .active && x.on F.scanOwn

/-- A nominal start falls due (R241) (DEDUCED, assumption 27; DEDUCED, assumption 48). -/
def Die.nominal (x : Die) : Die :=
  if x.on F.variable then
    match x.lastN with
    | some n => x.variableStart n
    | none => x
  else
    let t := x.fixedPoint
    x.selectFrame t (x.eligibleAt t) false

/-- CCLK from now to `t`, rounded up. -/
def Die.cclkTo (x : Die) (t : Nat) : Nat := (t - x.now18 + 44) / 45

/-- What the due start shows: the number of the selected frame with its buffer, if it may start, else the displayed one. -/
def Die.dueFrame (x : Die) (p : Nominal) : Option (Nat × Nat) :=
  match p.frame with
  | some f => (x.settledAt f).map fun b => (f, b)
  | none => none

/-- The leader announces the start that is due, at least 64 CCLK ahead, if what it selects may start, or as a repeat where it `must`
start (R169, R242) (DEDUCED, assumption 48). -/
def Die.announce (x : Die) (must : Bool) : Die :=
  match x.tmg.due with
  | some p =>
    if x.stitchUp && x.leads && x.sti.start.isNone && (must || p.frame.isNone || (x.dueFrame p).isSome) then
      let a := match x.tmg.lastStart with | some a => x.cclkTo (a + x.tMin - 45) | none => 0
      let m : StiLock := ⟨match x.dueFrame p with | some q => q.1 | none => x.shownNo.getD 0,
        some (x.cclk + max (max 64 a) (x.cclkTo p.time)), true⟩
      { x with sti := { x.sti with start := some m } }.sendLock m
    else x
  | none => x

/-- TMG_STATUS.WAITING: a nominal start has passed and its frame has not settled. -/
def Die.updWaiting (x : Die) : Die :=
  x.flag F.tmgWaiting (match x.tmg.due with | some p => p.frame.isSome && (x.dueFrame p).isNone | none => false)

/-- NOMINAL_START (R241, R243). A die in SILLAGE-RELAY drops frames that are overtaken (R321). -/
def execNominalStart (d : DieId) (s : State) : Result :=
  onDie s d fun _ x =>
    if x.framesRun then (x.nominal.announce false).updWaiting
    else if x.on F.run && x.power = .relay then
      match x.eligibleAt x.now18 with
      | some f => (x.passOver f).freeBelow f
      | none => x
    else x

/-- Whether a rectangle fits the half (R336). -/
def Die.rectFits (x : Die) (r : Rect) : Bool :=
  1 ≤ r.w && 1 ≤ r.h && r.x + r.w ≤ x.width && r.y + r.h ≤ x.height

/-- Rectangle `k`. -/
def Die.rect (x : Die) (k : Nat) : RectState := x.rects.toList.getD k { cur := none, next := none, run := 0, crc := 0 }

/-- Replace rectangle `k`. -/
def Die.setRect (x : Die) (k : Nat) (r : RectState) : Die := { x with rects := x.rects.setIfInBounds k r }

/-- Rectangle `k` at a frame start (R336, R337): an arming or disarming takes effect, one that no longer fits is dropped, and
CVU-B begins. -/
def Die.rectStart (x : Die) (k : Nat) : Die :=
  let r := x.rect k
  let r := match r.next with
    | some q => { r with cur := q, next := none, run := 0 }
    | none => r
  let r := { r with crc := cvuInit x.lyr.bltSel }
  match r.cur with
  | some q =>
    if x.rectFits q then
      ((x.setRect k r).put (F.bltTap k) q.tap).flag (F.bltFreeze k) q.freeze
    else (x.setRect k { r with cur := none }).raise 0xB2 k
  | none => x.setRect k r

/-- FROZEN clears once every rectangle that set it is disarmed (R340 and the collisions of chapter 20). -/
def Die.frozenCheck (x : Die) : Die :=
  let x : Die := { x with bltSetters := x.bltSetters.filter fun k => (x.rect k).cur.isSome }
  if x.bltSetters.isEmpty then x.flag F.bltFrozen false else x

/-- Every rectangle at a frame start. -/
def Die.rectsStart (x : Die) : Die :=
  let x := { x with lyr := { x.lyr with bltSel := cvuSel x 4 } }
  let x := ((List.range 16).foldl Die.rectStart x).frozenCheck
  x.put F.bltArmed (((List.range 16).filter fun k => (x.rect k).cur.isSome).map fun k => 2 ^ k).sum

/-- The frame shown changes to frame `f` in buffer `b` (R121, R238, R240): the old display slot is free. -/
def Die.showFrame (x : Die) (f b : Nat) : Die :=
  let old := x.tmg.display
  let x : Die := { x with tmg := { x.tmg with display := b, shows := 0, lastFrame := some f } }
  let x := x.setBuf old .free
  let x := (x.freeBelow f).bump F.tmgShown
  let x := (x.put F.frameLo f).put F.frameHi (f / 2 ^ 32)
  let n := (x.buf b).held
  let y : Die := { x with pcl := { x.pcl with heldSince := x.pcl.heldSince + n } }
  if n == 0 then x else (y.bump F.pclHold n).raise 0x33 n

/-- The displayed frame is shown again (R242). A selected frame that has not settled is then as any other above the last shown
one. -/
def Die.showAgain (x : Die) (unsettled : Bool) : Die :=
  let x := { x with tmg := { x.tmg with
    nRepeat := x.tmg.nRepeat + 1, lastFrame := if unsettled then x.shownNo else x.tmg.lastFrame } }.bump F.tmgRepeat
  let go := x.limitOpen secCclk 0 0x81
  let x := x.raiseLim secCclk 0 0x81 (min x.tmg.nRepeat 0xFFFF)
  if go then { x with tmg := { x.tmg with nRepeat := 0 } } else x

/-- A start later than its nominal start `t` (R242): the lateness in µs. -/
def Die.lateness (x : Die) (t : Nat) : Die :=
  if t + 45 ≤ x.now18 then (x.bump F.tmgLate).raise 0x80 (min ((x.now18 - t) / 18000) 0xFFFFFF) else x

/-- The wear intervals grow by the length of the frame just ended (R279). -/
def Die.wearStart (x : Die) : Die :=
  let x : Die := match x.tmg.lastStart with
    | some a =>
      let dt := x.now18 / 18 - a / 18
      { x with wear := { x.wear with
          dt := (List.range (x.height / 8)).map fun g => (g, min ((look x.wear.dt g).getD 0 + dt) 0xFFFFFFFF) } }
    | none => x
  let n := x.tmg.starts + 1
  let sample := x.on F.wearEn && n % 16 == 0
  let x : Die := { x with tmg := { x.tmg with starts := n }, wear := { x.wear with sampling := sample, skip := false } }
  if sample then x.bump F.wearSamples else x

/-- The correction bank changes at a frame start: a finished build, and a finished re-target pass (R270–R272). -/
def Die.correctionStart (x : Die) : Die :=
  let x := if x.lyr.mapDue then (x.flag F.mapOk true).raise 0x90 x.inuse else x
  let x := if x.lyr.swapDue then (x.put F.swapBit (1 - x.get F.swapBit)).raise 0x92 x.lyr.clipped else x
  { x with lyr := { x.lyr with mapDue := false, swapDue := false } }

/-- What a frame start samples for the pipeline (R264, R270, R291, R292, R295). -/
def Die.sampleStart (x : Die) : Die :=
  let od := x.on F.odEn
  let valid := x.lyr.odEn && x.lyr.odLines == x.height
  let ph := if x.on F.temporal then (x.shownNo.getD 0 + x.tmg.shows + x.get F.ditherPhase) % 4 else x.get F.ditherPhase % 4
  let x : Die := { x with
    lyr := { x.lyr with
      bank := x.on F.tableBank, corBank := x.inuse == 1, odEn := od, dphase := x.get F.ditherPhase, odLines := 0
      bad := [], unity := [] }
    tmg := { x.tmg with late := 0, reserved := 0, reservedSlice := 0, shows := x.tmg.shows + 1 } }
  (x.put F.oddPhase ph).flag F.echoValid valid

/-- The driver bank of the frame (R305, R306): the next one, or none where that bank is not free. -/
def Die.ldbStart (x : Die) : Die :=
  let b := (x.ldb.bank + 1) % 3
  let busy := b == x.ldb.shown || (x.ldb.latchPending && b == x.ldb.latched)
  let x : Die := { x with ldb := { x.ldb with bank := b, skip := busy, sent := [] } }
  if busy then
    let x := { x with ldb := { x.ldb with nSkip := x.ldb.nSkip + 1 } }.bump F.ldbBankSkip
    let go := x.limitOpen secCclk 0 0xA8
    let x := x.raiseLim secCclk 0 0xA8 (min x.ldb.nSkip 0xFFFF)
    if go then { x with ldb := { x.ldb with nSkip := 0 } } else x
  else x.put F.ldbBank b

/-- The times of the start: TMG_START, TMG_LINE, the line count (R242, R246). -/
def Die.clockStart (x : Die) : Die :=
  let t := x.ns
  let x := (x.put F.startLo t).put F.startHi (t / 2 ^ 32)
  let x := (x.put F.lineCclk (lineCclkOf x.rateMin (x.get F.vTotal))).put F.curLine 0
  { x with
    tmg := { x.tmg with
      period := match x.tmg.lastStart with | some a => x.now18 - a | none => 0
      lastStart := some x.now18, due := none, inFrame := true, lines := 0 }
    trim := { x.trim with window := false } }

/-- DRC_BW_RD and DRC_BW_WR: the words of the frame period that ends (DEDUCED, assumption 27). -/
def Die.bandwidth (x : Die) : Die :=
  let x := (x.put F.bwRd x.mem.wordsRd).put F.bwWr x.mem.wordsWr
  { x with mem := { x.mem with wordsRd := 0, wordsWr := 0 } }

/-- The start against the leader's count `start` (R170): the follower reports a slip, and LOCKED comes after 8 starts in a row within
±1 CCLK. -/
def Die.lockSlip (x : Die) (start : Nat) : Die :=
  let slip : Int := (x.cclk : Int) - start
  let x : Die := { x with sti := { x.sti with start := none } }
  if !x.stitchUp then x
  else if 1 < slip.natAbs && !x.leads then
    ({ x with sti := { x.sti with lockRun := 0 } }.flag F.locked false).raise 0xE4 (ofSigned 8 slip)
  else
    let n := min 8 (x.sti.lockRun + 1)
    let x : Die := { x with sti := { x.sti with lockRun := n } }
    if n = 8 then x.flag F.locked true else x

/-- What every frame start does once its frame is chosen; `new` is the frame and buffer of a new one, and `unsettled` says that the
selected frame has not settled. -/
def Die.startFrame (x : Die) (temp : Int) (p : Nominal) (new : Option (Nat × Nat)) (unsettled : Bool) : Die :=
  let x := (x.lateness p.time).wearStart
  let x := (x.flag F.tmgExcess p.excess).flag F.tmgWaiting false
  let x := match new with
    | some (f, b) => x.showFrame f b
    | none => x.showAgain unsettled
  let x := (x.correctionStart.clockStart.frameReports.sampleStart.bandwidth.aheadStart.layerStart 0).layerStart 1
  let x := x.ldbStart
  let x := if x.trim.irefDue then x.irefApply temp else x
  x.lockstepReset.release 1 0

/-- The frame to start, after the deferred commands of that start are applied (R149, R248, R340): freeze makes it a repeat. -/
def Die.frozenNow (x : Die) : Bool := x.acd.freeze || x.on F.bltFrozen

/-- A start of this die on its own decision, or on the leader's for frame `lock` (R169, R242). A die that is not JOINED starts no new
frame (R141). Commands deferred to a frame are applied at its start, which a frozen repeat is not (R149, R248). -/
def Die.startNow (x : Die) (c : Ctx) (p : Nominal) (lock : Option Nat) : Die :=
  let found := match lock with
    | some f => if x.shownNo = some f then none else (match x.bufOf f with
        | some b => if (x.buf b).settled then some (f, b) else none
        | none => none)
    | none => x.dueFrame p
  let want := if x.get F.join = 4 then found else none
  let was := x.frozenNow
  let x := x.applyDeferred c (if was then none else want.map (·.1))
  let x := if was && !x.frozenNow then x.applyDeferred c (want.map (·.1)) else x
  let x := x.rectsStart
  let new := if x.frozenNow then none else want
  if new.isNone && x.shownNo.isNone then x
  else x.startFrame (x.dieTemp c) p new (p.frame.isSome && found.isNone)

/-- FRAME_START (R242, R169): a start that has been announced takes place as announced, also when the stitch has gone DOWN since; a die
without a stitch starts on its own decision. A leader that has still to announce its start, of a frame that has settled late or a
repeat, announces it now, and starts at its next FRAME_START (DEDUCED, assumption 27). -/
def execFrameStart (d : DieId) (s : State) : Result :=
  onDie s d fun c x =>
    if !x.framesRun then x
    else
      let x := if x.tmg.due.isNone then x.nominal else x
      match x.sti.start, x.tmg.due with
      | some m, p => (x.startNow c (p.getD ⟨x.now18, none, false⟩) (some m.frame)).lockSlip (m.start.getD x.cclk)
      | none, some p => if !x.stitchUp then x.startNow c p none else if x.leads then x.announce true else x
      | none, none => x

/-- VBLANK_START (R246): the start of line H. -/
def execVblankStart (d : DieId) (s : State) : Result :=
  onDie s d fun _ x => if x.tmg.inFrame && x.tmg.lines == x.height + 1 then x.release 3 0 else x

/-- The Blotter compares rectangle `k` at frame end (R338–R340). -/
def Die.rectEnd (x : Die) (k : Nat) : Die :=
  let r := x.rect k
  match r.cur with
  | none => x
  | some q =>
    let ph := x.get F.oddPhase
    let v := cvuFinal x.lyr.bltSel r.crc
    let bad := v != q.expect.getD (if q.tap = 2 then ph else 0) 0
    let x := (x.put (F.bltPhase k) ph).put (F.bltValue k) v
    if bad then
      let x := (x.setRect k { r with run := r.run + 1 }).bump (F.bltCount k)
      let x := x.put F.bltMismatch (x.get F.bltMismatch + 2 ^ k)
      let x := if r.run = 0 then x.raise 0xB0 (k + 16 * q.tap + 64 * ph + 256 * (v % 2 ^ 24)) else x
      if q.freeze then
        let x := if x.on F.bltFrozen then x else (x.flag F.bltFrozen true).put F.bltSetter k
        { x with bltSetters := x.bltSetters.filter (· != k) ++ [k] }
      else x
    else if r.run = 0 then x
    else (x.setRect k { r with run := 0 }).raise 0xB1 (k + 2 ^ 16 * min r.run 0xFFFF)

/-- Send the Blotter's report over the stitch (R232, R341). -/
def Die.sendBlotter (x : Die) : Die :=
  if x.stitchUp then
    let m : StiBlotter := ⟨x.shownNo.getD 0, BitVec.ofNat 16 (x.get F.bltMismatch), BitVec.ofNat 16 (x.get F.bltArmed)⟩
    let (h, x) := x.stiSend 5 m.bytes
    x.emit (.stiBlotter h m)
  else x

/-- FRAME_END (R246, R338–R341, R345): the start of line H + 2. -/
def execFrameEnd (d : DieId) (s : State) : Result :=
  onDie s d fun _ x =>
    if x.tmg.inFrame && x.height + 3 ≤ x.tmg.lines && !x.trim.window then
      let x := ((List.range 16).foldl Die.rectEnd (x.put F.bltMismatch 0)).sendBlotter
      { x with trim := { x.trim with window := true } }.release 2 0
    else x

/-- TE_EDGE (R249, R332) (DEDUCED, assumption 27). -/
def execTeEdge (d : DieId) (s : State) : Result :=
  onDie s d fun _ x =>
    let ps := match x.tmg.teLast with
      | some t => (min (x.cclk - t) 0xFFFFFF :: x.tmg.tePeriods).take 4
      | none => []
    let p := ps.headD 0
    let first := ps.getLastD 0
    let agree := ps.length == 4 && ps.all fun q => ((q : Int) - first).natAbs * 100 ≤ first
    let x : Die := { x with tmg := { x.tmg with teLast := some x.cclk, tePeriods := ps } }
    let x := if x.on F.teOk then x.put F.tePeriod p
      else if agree then ((x.flag F.teOk true).put F.tePeriod p).raise 0x85 p
      else x
    if x.takeover = .resumed then x.scanTake else x

/-- TE_LOST (R249). -/
def execTeLost (d : DieId) (s : State) : Result :=
  onDie s d fun _ x =>
    if x.on F.teOk then
      let x := (((x.flag F.teOk false).put F.tePeriod 0).bump F.tmgTeLost).raise 0x84
      { x with tmg := { x.tmg with teLast := none, tePeriods := [] } }
    else x

/-- LAYER_LATCH_CLEAR (R262, R266): a write of 1 to H_LATCH or T_LATCH, and so to the LYR block. -/
def execLayerLatchClear (d : DieId) (top : Bool) (s : State) : Result :=
  onDie s d fun _ x => if x.barOpen then (x.flag (latchBit (b2n top)) false).layerWrite 0x4804 else x

/-- Write BLT_STATUS (R340). -/
def Die.writeBlotter (x : Die) (v : Word) : Die :=
  if v.toNat % 2 = 1 then { x.flag F.bltFrozen false with bltSetters := [] } else x

/-- BLOTTER_FROZEN_CLEAR (R340). -/
def execBlotterFrozenClear (d : DieId) (s : State) : Result :=
  onDie s d fun _ x => if x.barOpen then x.writeBlotter 1 else x

end Sys2Proof.Machine
end

