-- ==== Sys2Proof/Machine/Mem.lean ====
section
/-! DEFINITION. DRAM initialisation and scrub (R223, R224), the algorithm selection and the expiry of alive keys (R230, R233),
and ODD_CFG (R299). -/

namespace Sys2Proof.Machine

/-- DRAM_INIT_DONE (R223): every data word is 0 with valid check bytes. -/
def execDramInitDone (d : DieId) (s : State) : Result :=
  onDie s d fun _ x =>
    if x.power == .booting && !x.on F.initDone then
      { x with mem := { x.mem with dram := [], dramUe := [] } }.flag F.initDone true
    else x

/-- DRAM_INIT_RETRY (R223): initialisation has failed and is tried again; DRAM_INIT_FAIL is raised once. -/
def execDramInitRetry (d : DieId) (s : State) : Result :=
  onDie s d fun _ x =>
    if x.power == .booting && !x.on F.initDone && !x.mem.initFailed then
      { x with mem := { x.mem with initFailed := true } }.raise 0x75
    else x

/-- Whether the scrubber runs (R224). -/
def Die.scrubs (x : Die) : Bool := x.on F.initDone && x.power != .deep && x.get F.scrubH != 0

/-- Whether the scrubber passes word `w` on its way from where it stands to `upTo`, with the turn at the end of the data words; to the
same word it goes once round (R224). -/
def Die.scrubbed (x : Die) (upTo w : Nat) : Bool :=
  let a := x.mem.scrubAt
  w % 32 == 0 && decide (w < 0x70000000) && (if a < upTo then a ≤ w && w < upTo else a ≤ w || w < upTo)

/-- DRAM_SCRUB (R224, R225): on its way to `upTo` the scrubber has met correctable errors, which it writes back, and
uncorrectable ones; words already known as uncorrectable are met again. The table of R213 names no master for the scrubber, so
the master in the detail words is a free value (assumption 31). -/
def execDramScrub (d : DieId) (upTo : Nat) (met : ScrubMet) (s : State) : Result :=
  onDie s d fun _ x =>
    if x.scrubs then
      let a := x.mem.scrubAt
      let z := min (upTo / 32 * 32) 0x70000000
      let m := Config.freeNat x.free
      let pass (w : Nat) : Bool := x.scrubbed z w
      let bad := x.mem.dramUe.filter pass ++ (met.ue.filter fun w => pass w && !x.mem.dramUe.contains w)
      let good := met.ce.filter fun w => pass w && !bad.contains w
      let x : Die := { x with free := x.free + 1, mem := { x.mem with scrubAt := z % 0x70000000 } }
      let x := x.traffic true ((if a < z then z - a else z + 0x70000000 - a) / 32) good.length
      (x.noteCe m good).noteUe m bad
    else x

/-- Whether code `c` may not be stored for instance `i` (R230). -/
def cvuCodeBad (i c : Nat) : Bool := 4 ≤ c || (i == 2 && decide (c < 2))

/-- Write CVU_SEL (R230, R387): a refused field keeps its value, the others are stored (DEDUCED, assumption 47). -/
def Die.writeCvuSel (x : Die) (v : Word) (mask : Word := 0xFFFFFFFF) : Die :=
  if x.on F.sealed then x
  else
    let w := (x.reg 0x3800 &&& ~~~mask) ||| (v &&& mask)
    let bad := (List.range 6).filter fun i => cvuCodeBad i (bits w.toNat (4 * i) 3)
    let keep : Nat := bad.foldl (fun a i => a + 7 * 2 ^ (4 * i)) 0
    let x := x.store 0x3800 v (mask &&& ~~~(BitVec.ofNat 32 keep))
    if bad.isEmpty then x else x.raise 0xF1 (refusedDetail 0x3800 w)

/-- CVU_SEL_WRITE (R230). -/
def execCvuSelWrite (d : DieId) (v : Word) (s : State) : Result :=
  onDie s d fun _ x => if x.barOpen then x.writeCvuSel v else x

/-- ALIVE_KEY_EXPIRE (R233): the key holds no value (DEDUCED, assumption 47). -/
def execAliveKeyExpire (d : DieId) (key : AliveKey) (s : State) : Result :=
  onDie s d fun _ x =>
    { x with pcl := { x.pcl with rxAlive := x.pcl.rxAlive.filter fun p => !(p.1 == key) } }

/-- Write ODD_CFG (R299, R387): DEPTH is refused by itself, also where it breaks a condition of R317 (R318), and every other field is
stored (DEDUCED, assumption 30). -/
def Die.writeOddCfg (x : Die) (v : Word) (mask : Word := 0xFFFFFFFF) : Die :=
  let w := (x.reg 0x5800 &&& ~~~mask) ||| (v &&& mask)
  let depth := bits w.toNat 4 2
  let refused := depth == 3 || (x.on F.run && depth != x.get F.depth) || x.breaksLdb (x.put F.depth depth)
  let x := (x.store 0x5800 v (if refused then mask &&& ~~~0x30 else mask)).updLoad
  if refused then x.raise 0x99 (refusedDetail 0x5800 w) else x

/-- ODD_CFG_WRITE (R299). -/
def execOddCfgWrite (d : DieId) (v : Word) (s : State) : Result :=
  onDie s d fun _ x => if x.barOpen then x.writeOddCfg v else x

end Sys2Proof.Machine
end

