-- ==== Sys2Proof/Machine/Store.lean ====
section
/-! DEFINITION. The compensation store's own steps: the journal scan at boot (R361, R362), the end of a program and of an erase
(R360, R361, R364), the end of a suspension (R363) and the start of a refresh (R364). -/

namespace Sys2Proof.Machine

/-- Bytes of journal slot `i`. -/
def Die.slot (x : Die) (i : Nat) : List Byte := x.flashRead (16 * i) 16

/-- Whether a slot is free (R361). -/
def slotFree (b : List Byte) : Bool := b.all (· == 0xFF)

/-- Whether a slot holds a valid entry (R361). -/
def slotOk (code : Nat) (b : List Byte) : Bool := bytesAt b 12 4 == cvuField code 4 (b.take 12)

/-- Whether slots are a run of valid entries followed by free ones (R362). -/
def journalRun (code : Nat) : List (List Byte) → Bool
  | [] => true
  | b :: t => if slotFree b then t.all slotFree else slotOk code b && journalRun code t

/-- A journal block that is neither free nor such a run is erased (R362). -/
def Die.scanBlock (x : Die) (n : Nat) : Die :=
  if journalRun (cvuSel x 3) ((List.range 4096).map fun i => x.slot (4096 * n + i)) then x else x.eraseBlock n

/-- A valid journal entry: TYPE, block, JSEQ, RTC and its slot. -/
structure JournalEntry where
  type  : Nat
  block : Nat
  seq   : Nat
  rtc   : Nat
  slot  : Nat
deriving DecidableEq, Repr

/-- The valid entries of the journal (R361). -/
def Die.journalEntries (x : Die) : List JournalEntry :=
  (List.range journalSlots).filterMap fun i =>
    let b := x.slot i
    if slotFree b || !slotOk (cvuSel x 3) b then none
    else some ⟨natAt b 0 1, natAt b 2 2, natAt b 4 4, natAt b 8 4, i⟩

/-- The entry of highest JSEQ. JSEQ does not wrap within the service life (R381). -/
def latestOf : List JournalEntry → Option JournalEntry
  | [] => none
  | e :: t =>
    match latestOf t with
    | none => some e
    | some f => if e.seq < f.seq then some f else some e

/-- The blocks of 8–4095 whose latest entry is ERASE_START (R362). -/
def openErases (es : List JournalEntry) : List Nat :=
  let of (b : Nat) : List JournalEntry := es.filter fun e => e.block == b && (e.type == 1 || e.type == 2)
  ((es.filter fun e => e.type == 1 && decide (8 ≤ e.block) && decide (e.block < 4096)).map (·.block)).eraseDups.filter fun b =>
    match latestOf (of b) with
    | some e => e.type == 1
    | none => false

/-- The refresh that the journal shows as unfinished: the block at which it goes on (R364). -/
def openRefresh (es : List JournalEntry) : Option (Option Nat) :=
  match latestOf (es.filter fun e => e.type == 3 || e.type == 4) with
  | none => none
  | some e =>
    if e.type = 4 then none
    else
      let done := ((es.filter fun e => e.type == 4).map (·.seq)).foldl max 0
      let ended := es.any fun e => e.type == 4
      let starts := (es.filter fun e => e.type == 3 && (!ended || done < e.seq)).map (·.seq)
      let first := starts.foldl min e.seq
      some ((latestOf (es.filter fun e => e.type == 1 && decide (8 ≤ e.block) && decide (e.block < 2312) && decide (first < e.seq))).map
        (·.block))

/-- RTC of the last REFRESH_END, from the latestOf of REFRESH_END and ANCHOR (R361). -/
def lastRefresh (es : List JournalEntry) : Nat :=
  match latestOf (es.filter fun e => e.type == 4 || e.type == 5) with
  | some e => e.rtc
  | none => 0

/-- The engine takes up the journal where it stands (R361, R362, R364) (DEDUCED, assumption 28). -/
def Die.journalResume (x : Die) : Die :=
  let es := x.journalEntries
  let x : Die := { x with cst := { x.cst with
    jseq := match latestOf es with | some e => (e.seq + 1) % 2 ^ 32 | none => 0
    jslot := match latestOf es with | some e => (e.slot + 1) % journalSlots | none => 0
    refresh := (openRefresh es).map fun b => match b with | some b => (b, !x.recordOk b) | none => (8, false) } }
  (x.put F.refreshLast (lastRefresh es)).flag F.refreshRun x.cst.refresh.isSome

/-- A block that an interrupted erase has left is erased again (R362). -/
def Die.repair (rtc : Nat) (x : Die) (b : Nat) : Die := ((x.startErase b rtc).endErase b rtc).raise 0xD1 b

/-- STORE_READY (R228, R362): the scan and the repair are over. -/
def execStoreReady (d : DieId) (s : State) : Result :=
  onDie s d fun c x =>
    if x.power == .booting && x.cst.deviceOk && !x.on F.cstReady then
      let slots := ((List.range journalSlots).map x.slot).filter (!slotFree ·)
      let good := (slots.filter (slotOk (cvuSel x 3))).length
      let x := (x.bump (F.cvuPass 3) good).bump (F.cvuFail 3) (slots.length - good)
      let x := (List.range 8).foldl Die.scanBlock x
      let x := (openErases x.journalEntries).foldl (Die.repair c.mod.rtc.toNat) x.journalResume
      (x.flag F.cstReady true).raise 0xD0
    else x

/-- A program or an erase has failed: counted and raised (R360); what the bytes from `a` on hold is open (assumption 32). -/
def Die.storeFail (x : Die) (code a n : Nat) : Die :=
  ((x.bump F.cstWriteFail).raise code (a / flashBlock % 4096)).openBytes a n

/-- Blocks of the map copies whose record a program of `n` bytes from `base` has completed as the LAST of its set (R360): it wrote
the record's last byte (DEDUCED, assumption 33). -/
def Die.lastRecords (x : Die) (base n : Nat) : List Nat :=
  ((List.range (n / flashBlock + 2)).map fun i => base / flashBlock + i).filter fun b =>
    let h := x.recHead b
    let e := b * flashBlock + 63 + rPlen h
    decide (8 ≤ b) && decide (b < 2312) && x.isRecord b && rKind h == 1 && rLast h && decide (rPlen h ≤ plenMax) &&
      decide (base ≤ e) && decide (e < base + n)

/-- KEY_OK and MISMATCH after one side of a mismatch has ended (R285). -/
def Die.mismatchEnds (x : Die) : Die :=
  let x := x.flag F.keyOk x.keyOk
  if x.keyOk then x.put F.mismatch 0 else x

/-- A map copy is complete (R285, R360): it is validated, and ends the mismatch on the correction side if it is the panel's. -/
def Die.mapCommitted (x : Die) (b : Nat) : Die :=
  let c := if b < 1160 then 0 else 1
  let x := x.validateMap c
  let mine := (x.mapBad c).isNone && x.wear.key == some (rKey (x.recHead (mapBlock c)))
  if mine && !x.wear.mapKeyOk then ({ x with wear := { x.wear with mapKeyOk := true } }.mismatchEnds).buildStart else x

/-- A host program ends (R360). -/
def Die.hostProgramDone (x : Die) (rtc base : Nat) (data : List Byte) (short : Bool) (bad : Option Nat) : Die :=
  match bad.filter (· < data.length) with
  | some n =>
    ((((x.flashWrite base (data.take n)).storeFail 0xD6 (base + n) (data.length - n)).storeDone 0x07 n)).storeNext rtc
  | none =>
    let x := x.flashWrite base data
    let x := (x.lastRecords base data.length).foldl Die.mapCommitted x
    (if short then x.storeDone 0x0A 0 else x.storeDone 0x00 data.length).storeNext rtc

/-- A record of a checkpoint or of a refresh is programmed into block `b`, or fails (DEDUCED, assumption 28). -/
def Die.recordDone (x : Die) (b : Nat) (r : List Byte) (bad : Option Nat) : Die :=
  match bad.filter (· < r.length) with
  | some n => (x.flashWrite (b * flashBlock) (r.take n)).storeFail 0xD6 (b * flashBlock + n) (r.length - n)
  | none => x.flashWrite (b * flashBlock) r

/-- A record of a checkpoint is done: the next one is erased for, unless it was the last, it failed, the die is in DRYDOWN, or the
panel's key no longer matches (R282, R285, R334, R359). -/
def Die.partOn (x : Die) (rtc p copy idx : Nat) (rs : List (List Byte)) (ok : Bool) : Die :=
  if ok && decide (idx + 1 < rs.length) && x.power != .drydown && x.wear.ledgerOk then x.startOp rtc (.part p copy (idx + 1) rs false)
  else x.storeNext rtc

/-- STORE_PROGRAM_DONE (R360, R364): `bad` is the number of bytes that read back correctly before a mismatch. -/
def execStoreProgramDone (d : DieId) (bad : Option Nat) (s : State) : Result :=
  onDie s d fun c x =>
    let rtc := c.mod.rtc.toNat
    match x.cst.op with
    | .program base data short => x.hostProgramDone rtc base data short bad
    | .part p copy i rs true =>
      let r := rs.getD i []
      (x.recordDone (partBlock p copy + i) r bad).partOn rtc p copy i rs (bad.filter (· < r.length)).isNone
    | .refresh b r true => (x.recordDone b r bad).storeNext rtc
    | .idle | .erase _ _ | .part _ _ _ _ false | .refresh _ _ false => x

/-- An erase of block `b` has ended: journalled, or failed (R360, R361). -/
def Die.erased (x : Die) (b rtc : Nat) (ok : Bool) : Die :=
  if ok then x.endErase b rtc else x.storeFail 0xD7 (b * flashBlock) flashBlock

/-- STORE_ERASE_DONE (R360, R361): an erase that is suspended does not end. -/
def execStoreEraseDone (d : DieId) (ok : Bool) (s : State) : Result :=
  onDie s d fun c x =>
    let rtc := c.mod.rtc.toNat
    if x.cst.suspended then x
    else match x.cst.op with
      | .erase b left =>
        let x := x.erased b rtc ok
        if !ok then (x.storeDone 0x07 0).storeNext rtc
        else if left = 0 then (x.storeDone 0x00 0).storeNext rtc
        else x.startOp rtc (.erase (b + 1) (left - 1))
      | .part p copy i rs false =>
        let x := x.erased (partBlock p copy + i) rtc ok
        if ok && x.wear.ledgerOk then
          { x with cst := { x.cst with op := .part p copy i (rs.set i (sealRecord (cvuSel x 3) (rs.getD i []))) true } }
        else x.storeNext rtc
      | .refresh b r false =>
        let x := x.erased b rtc ok
        if ok then { x with cst := { x.cst with op := .refresh b r true } } else x.storeNext rtc
      | .idle | .program _ _ _ | .part _ _ _ _ true | .refresh _ _ true => x

/-- STORE_ERASE_RESUME (R334, R363). -/
def execStoreEraseResume (d : DieId) (s : State) : Result :=
  onDie s d fun _ x =>
    if x.cst.suspended && !x.cst.drySuspended then
      { x with cst := { x.cst with suspended := false } }.flag F.cstSuspended false
    else x

/-- Whether a refresh is due (R364). -/
def Die.refreshDue (x : Die) (rtc : Nat) : Bool :=
  x.on F.refreshEn && decide (126230400 ≤ toSigned 32 (rtc + 2 ^ 32 - x.get F.refreshLast))

/-- STORE_REFRESH_START (R364): map copy A from its first block on, then copy B. -/
def execStoreRefreshStart (d : DieId) (s : State) : Result :=
  onDie s d fun c x =>
    let rtc := c.mod.rtc.toNat
    if x.storeMay && x.cst.refresh.isNone && x.refreshDue rtc then
      let x := ((x.journal 3 0 rtc).flag F.refreshRun true).raise 0xD4
      { x with cst := { x.cst with refresh := some (8, false) } }.storeKick rtc
    else x

end Sys2Proof.Machine
end

