-- ==== Sys2Proof/Machine/Regs.lean ====
section
/-! DEFINITION. BAR0 as the host reaches it (chapter 25): what every register reads as, what every write does, the MSI-X
structures (R177, R179), the seal (R373) and the end of BOOTING (R367). -/

namespace Sys2Proof.Machine

/-- The registers whose contents another block holds, as they read now; none for a register that holds its own value.
(DEDUCED, assumption 19). -/
def Die.derived (c : Ctx) (x : Die) (off : Nat) : Option Word :=
  let m := c.mod
  let temp := match x.id with | .W => m.meas.dieW | .E => m.meas.dieE
  match off with
  | 0x0800 => some (BitVec.ofNat 32 (x.power.code + 16 * m.lastOff.toNat))
  | 0x0804 => some (BitVec.ofNat 32 (m.meas.vin.toNat + 2 ^ 16 * m.meas.iin.toNat))
  | 0x0808 => some (BitVec.ofNat 32 (temp.toNat + 2 ^ 16 * m.meas.base.toNat))
  | 0x080C => some (x.keep.cfg.setWidth 32)
  | 0x0810 => some (x.keep.status.setWidth 32)
  | 0x0814 => some m.uv
  | 0x0818 => some m.ov
  | 0x081C => some (BitVec.ofNat 32 m.rtc.toNat)
  | 0x0820 => some (BitVec.ofNat 32 (m.rtc.toNat / 2 ^ 32))
  | 0x1850 => some (BitVec.ofNat 32 x.ns)
  | 0x1854 => some (BitVec.ofNat 32 (x.ns / 2 ^ 32))
  | _ => none

/-- The status bits that follow the block's state, by register: field and value (DEDUCED, assumption 19). -/
def Die.derivedBits (x : Die) (off : Nat) : List (F × Nat) :=
  match off with
  | 0x0848 => [(F.silQuiet, b2n x.quiet)]
  | 0x3400 => [(F.scrubRun, b2n x.scrubs)]
  | 0x4010 => [(F.frozen, b2n x.acd.freeze), (F.blanked, b2n x.blanked)]
  | 0x5004 => [(F.inuse, x.inuse)]
  | 0x6C04 => [(F.trmWaiting, b2n x.trimWaits)]
  | 0x7400 => [(F.leader, b2n (x.stitchUp && x.leads))]
  | _ => []

/-- What the register at `off` holds now, as STATUS_SNAPSHOT captures it (R386). WO bits read 0 (R4), and so does a reserved
offset (R384) (DEDUCED, assumption 19). -/
def Die.view (c : Ctx) (x : Die) (off : Nat) : Word :=
  match regRow off with
  | none => 0
  | some r =>
    let v := (x.derived c off).getD (x.reg off &&& ~~~(BitVec.ofNat 32 r.wo))
    (x.derivedBits off).foldl (fun v p => setBits v p.1.lo p.1.width p.2) v

/-- The HI register of the pair whose LO register is at `off` (R385). -/
def pairHi (off : Nat) : Option Nat :=
  if [0x081C, 0x1808, 0x1850, 0x4014, 0x401C, 0x1050, 0x1070, 0x1090, 0x10B0].contains off then some (off + 4) else none

/-- Whether `off` is the HI register of a pair (R385). -/
def isPairHi (off : Nat) : Bool := 4 ≤ off && (pairHi (off - 4)).isSome

/-- Whether BAR0 serves the block of `off` now (R368). -/
def Die.served (x : Die) (off : Nat) : Bool := x.barOpen || off < 0x1000 || 0x8000 ≤ off

/-- The bits of the register at `off` that a read clears (R4). -/
def rcBits (off : Nat) : Nat := match regRow off with | some r => r.rc | none => 0

/-- Clear an RC register (R4). A read of SCB_VIOL_INFO re-arms its latch (R219). -/
def Die.clearRc (x : Die) (off : Nat) : Die :=
  let x := if rcBits off = 0 then x else x.setReg off (x.reg off &&& ~~~(BitVec.ofNat 32 (rcBits off)))
  if off = 0x3304 then { x with mem := { x.mem with violHeld := false } } else x

/-- A BAR0 read of one DW in 0x0000–0x7FFF (R4, R368, R384, R385). -/
def Die.barRead (c : Ctx) (x : Die) (off : Nat) : Word × Die :=
  if !x.served off then (0, x)
  else if isPairHi off then ((look x.latch off).getD 0, x)
  else
    let v := x.view c off
    let x := match pairHi off with
      | some hi => { x with latch := assoc x.latch hi (x.view c hi) }
      | none => x
    (v, x.clearRc off)

/-- Write one DW of the MSI-X table (R177, R179): a vector that is unmasked while its pending bit is set is sent.
(DEDUCED, assumption 42). -/
def Die.writeMsix (x : Die) (i : Nat) (v mask : Word) : Die :=
  let ok : Word := if i % 4 = 3 then 1 else 0xFFFFFFFF
  let m := mask &&& ok
  let w := (smGet msixReset x.hif.msix i &&& ~~~m) ||| (v &&& m)
  let x : Die := { x with hif := { x.hif with msix := smSet msixReset x.hif.msix i w } }
  if i % 4 = 3 && w.toNat % 2 = 0 && bitAt x.hif.pba (i / 4) && !x.hif.d3hot then
    { x with hif := { x.hif with pba := x.hif.pba - 2 ^ (i / 4) } }.sendVector (i / 4)
  else x

/-- SYS_SEAL (R373) (DEDUCED, assumption 47). -/
def Die.writeSeal (x : Die) (key : Nat) : Die :=
  if key = 0x5EA1 && !x.on F.sealed then (x.flag F.sealed true).raise 0xF2 else x

/-- What a write of one DW does (R4, R5, R384, R387): `mask` selects the bits that it carries. -/
def Die.barWrite (x : Die) (off : Nat) (v mask : Word) : Die :=
  let w := (x.reg off &&& ~~~mask) ||| (v &&& mask)
  match off with
  | 0x0008 => if mask.toNat % 65536 = 65535 then x.writeSeal (v.toNat % 65536) else x
  | 0x0408 => if mask.toNat % 2 ^ 24 = 0 then x else x.gclkRequest (w.toNat % 2 ^ 24) none
  | 0x040C => x.writeGclkSeg v mask
  | 0x0410 => x.writeLdbRate v mask
  | 0x080C =>
    let m : BitVec 2 := mask.setWidth 2
    { x with keep := { x.keep with cfg := (x.keep.cfg &&& ~~~m) ||| (v.setWidth 2 &&& m) } }
  | 0x0810 => { x with keep := { x.keep with status := x.keep.status &&& ~~~((v &&& mask).setWidth 7) } }
  | 0x1000 => x.writeQphyCfg v mask
  | 0x1004 => (x.store off v mask).applyTxInit
  | 0x2000 => x.writeHifCtrl v mask
  | 0x203C => x.writeSticky (v &&& mask)
  | 0x3800 => x.writeCvuSel v mask
  | 0x4000 => x.writeRun v mask
  | 0x4004 => x.writeRaster off v mask
  | 0x4008 => x.writeMode v mask
  | 0x400C => x.writeRaster off v mask
  | 0x5000 => (x.store off v mask).updLoad
  | 0x5040 => (x.writeWearCfg v mask).updLoad
  | 0x5050 => x.writeWearStrip v mask
  | 0x5800 => x.writeOddCfg v mask
  | 0x6000 => x.writeLdbCtrl v mask
  | 0x6800 => x.writeBlotter (v &&& mask)
  | 0x6C0C =>
    let x := x.store off v mask
    x.emit (.iref (x.get F.irefCode))
  | _ =>
    if 0x1868 ≤ off && off ≤ 0x1874 then if x.on F.sealed then x else x.setReg off w
    else if isHifCfg off then x.writeHifCfg off v mask
    else if isLdbCfg off then x.writeLdbCfg off v mask
    else if 0x4800 ≤ off && off < 0x5000 then (x.store off v mask).layerWrite off
    else x.store off v mask

/-- Byte enables as a mask of bits (R177). -/
def beMask (be : BitVec 4) : Word :=
  BitVec.ofNat 32 (((List.range 4).map fun i => if be.getLsbD i then 255 * 256 ^ i else 0).sum)

/-- REGISTER_WRITE (R177, R368, R384, R387): one DW at the address, with byte enables. -/
def execRegisterWrite (d : DieId) (off : BitVec 16) (v : Word) (be : BitVec 4) (s : State) : Result :=
  onDie s d fun _ x =>
    let o := off.toNat - off.toNat % 4
    if o < 0x8000 then
      if x.served o && (regRow o).isSome then x.barWrite o v (beMask be) else x
    else if o < 0x8200 then x.writeMsix ((o - 0x8000) / 4) v (beMask be)
    else if 0xC000 ≤ o && o < 0xC008 then x
    else x.raise 0x5A (refusedDetail o v)

/-- LO_READ_LATCH (R385): a read of either register of a pair; that of LO latches HI (DEDUCED, assumption 42; DEDUCED,
assumption 47). -/
def execLoReadLatch (d : DieId) (off : BitVec 16) (s : State) : Result :=
  onDie s d fun c x =>
    if (pairHi off.toNat).isSome || isPairHi off.toNat then
      let (v, x) := x.barRead c off.toNat
      x.emit (.barRead v)
    else x

/-- A BAR0 read of one DW at `off` (R177): a register, the MSI-X table or the pending bits; elsewhere Unsupported Request. -/
def Die.dwRead (c : Ctx) (x : Die) (off : Nat) : Die :=
  if off < 0x8000 then
    let (v, x) := x.barRead c off
    x.emit (.barRead v)
  else if off < 0x8200 then x.emit (.barRead (smGet msixReset x.hif.msix ((off - 0x8000) / 4)))
  else if off = 0xC000 then x.emit (.barRead (BitVec.ofNat 32 x.hif.pba))
  else if off = 0xC004 then x.emit (.barRead 0)
  else x.emit .barUnsupported

/-- RC_COUNTER_READ (R4, R177, R379): a read of a register, which clears its RC bits; of one without them a plain read (DEDUCED,
assumption 42). -/
def execRcCounterRead (d : DieId) (off : BitVec 16) (s : State) : Result :=
  onDie s d fun c x => x.dwRead c (off.toNat - off.toNat % 4)

/-- SYS_SEAL_WRITE (R373). -/
def execSysSealWrite (d : DieId) (v : Word) (s : State) : Result :=
  onDie s d fun _ x => x.writeSeal (v.toNat % 65536)

/-- BOOT_COMPLETE (R54, R67, R86, R362, R367): self-initialisation is done, which takes 200 ms or more from power good. The store
holds it up only until it is ready or has failed (DEDUCED, assumption 14). -/
def execBootComplete (d : DieId) (s : State) : Result :=
  onDie s d fun c x =>
    if x.power == .booting && x.on F.cclkLock && x.on F.initDone && (x.on F.cstReady || x.on F.deviceFail) &&
        c.mod.drydown.isNone then
      let ms := max 200 (x.cclk / msCclk)
      let x := (x.raise 0x08 (c.mod.lastOff.toNat + 2 ^ 16 * min c.mod.uv.toNat 0xFFFF)).raise 0xF0 (ms % 2 ^ 16)
      let x := (x.flag F.bootDone true).put F.bootMs (min ms 0xFFFF)
      { x with power := .active }.gclkStart
    else x

end Sys2Proof.Machine
end

