-- ==== Sys2Proof/Machine/Ring.lean ====
section
/-! DEFINITION. The host commands without an engine (R186–R188), and those that start the trim engine and the Accord engine
(R149, R350): the head of the command ring executes, in ring order. -/

namespace Sys2Proof.Machine

/-- The opcode of an entry (R184). -/
def opIs (n : Nat) (b : List Byte) : Bool := natAt b 0 1 == n

/-- HOST_ADDR of an entry, and whether it is 4-byte aligned (R186). -/
def hostAddr (b : List Byte) : Nat := natAt b 24 8
def addrOk (b : List Byte) : Bool := hostAddr b % 4 == 0

/-- LENGTH of an entry (R186). -/
def hostLen (b : List Byte) : Nat := natAt b 16 4

/-- Every command of an opcode, and none. -/
def always (_ : List Byte) : Bool := true
def never (_ : List Byte) : Bool := false

/-- The job that an entry gives its engine. -/
def jobOf (c : Cmd) (b : List Byte) : Job := { cmd := c, args := bytesAt b 8 52, live := true }

/-- Whether the entry at the head is one that `is` names. -/
def Die.headIs (x : Die) (is : List Byte → Bool) : Bool :=
  match x.hif.fetched with
  | f :: _ => is f.bytes && !f.bad
  | [] => false

/-- NOP (R186). -/
def execNop (d : DieId) (s : State) : Result :=
  onDie s d fun _ x =>
    x.hostCmd (opIs 0x01) true never never (fun _ => []) (fun _ _ => true) fun _ _ x => (.now 0x00 0, x)

/-- The writes on their way to the memories in SCOPE are those that a FENCE waits for (R188). -/
def Die.fenceWrites (x : Die) (scope : Nat) : Die :=
  { x with mem := { x.mem with
      unlanded := x.mem.unlanded.map fun l => { l with fenced := l.fenced || bitAt scope (if l.dram then 0 else 1) } } }

/-- FENCE (R188): the ring is held. For HOST, the zero-length read follows the writes already issued. (DEDUCED,
assumption 49). -/
def execFence (d : DieId) (s : State) : Result :=
  onDie s d fun _ x =>
    x.hostCmd (opIs 0x02) true never never (fun _ => [(8, 1), (24, 8)]) (fun _ b => natAt b 8 1 < 8 && addrOk b)
      fun c b x =>
        let x : Die := { x with hif := { x.hif with fence := some (jobOf c b) } }
        let x := x.fenceWrites (natAt b 8 1)
        (.later,
          if bitAt (natAt b 8 1) 2 then x.emit (.hostRead (if hostAddr b = 0 then x.base64 0x2008 else hostAddr b) 0) else x)

/-- Commands that have started and not finished, but for a FENCE (R188) (DEDUCED, assumption 49). -/
def Die.unfinished (x : Die) : Bool :=
  let h := x.hif
  [h.table, h.trim, h.store, h.wear, h.service, h.scan, h.panel].any (fun j => match j with | some j => j.live | none => false) ||
    x.clk.cmd.isSome || x.pcl.outstanding.any (·.cmd.isSome) || x.channels.toList.any (·.abort.isSome) || !h.held.isEmpty

/-- FENCE_DONE (R188): every write before the FENCE is acknowledged. It waits for the commands before it (DEDUCED, assumption
49). -/
def execFenceDone (d : DieId) (s : State) : Result :=
  onDie s d fun _ x =>
    match x.hif.fence with
    | some j =>
      if x.unfinished then x
      else (({ x with hif := { x.hif with fence := none } }.landWhere (·.fenced)).complete j.cmd 0x00).flush.fetchMore
    | none => x

/-- Argument bytes of WAIT_EVENT, by KIND (R186). -/
def waitUsed (b : List Byte) : List (Nat × Nat) :=
  let k := natAt b 8 1
  [(8, 1), (12, 4)] ++ (if k = 4 || k = 5 then [(9, 1)] else []) ++ (if k = 6 then [(24, 8)] else [])

/-- WAIT_EVENT (R187). An Accord time already passed completes at once. -/
def execWaitEvent (d : DieId) (s : State) : Result :=
  onDie s d fun _ x =>
    x.hostCmd (opIs 0x03) false never never waitUsed
      (fun _ b => 1 ≤ natAt b 8 1 && natAt b 8 1 ≤ 6 && natAt b 9 1 ≤ 15)
      fun c b x =>
        if natAt b 8 1 = 6 && natAt b 24 8 ≤ x.ns then (.now 0x00 0, x)
        else
          (.later, { x with hif := { x.hif with
            wait := some ⟨c, natAt b 8 1, natAt b 9 1, natAt b 24 8, natAt b 12 4⟩ } }.flag F.hifWaiting true)

/-- A WAIT_EVENT ends (R187). -/
def Die.endWait (x : Die) (w : Wait) (status : Nat) : Die :=
  (({ x with hif := { x.hif with wait := none } }.flag F.hifWaiting false).complete w.cmd status).flush.fetchMore

/-- WAIT_EVENT_TIME_REACHED (R187). -/
def execWaitEventTimeReached (d : DieId) (s : State) : Result :=
  onDie s d fun _ x =>
    match x.hif.wait with
    | some w => if w.kind = 6 && w.time ≤ x.ns then x.endWait w 0x00 else x
    | none => x

/-- WAIT_EVENT_TIMEOUT (R187). -/
def execWaitEventTimeout (d : DieId) (s : State) : Result :=
  onDie s d fun _ x =>
    match x.hif.wait with
    | some w => if w.timeout != 0 then x.endWait w 0x06 else x
    | none => x

/-- SET_FIELD of MODE 0 (R151); a MODE that does not exist is refused here (R186). -/
def execSetField (d : DieId) (s : State) : Result :=
  onDie s d fun _ x =>
    x.hostCmd (fun b => opIs 0x04 b && natAt b 8 1 != 1 && natAt b 8 1 != 2) false never never
      (fun _ => [(8, 2), (12, 4)]) (fun _ b => natAt b 8 1 == 0 && fieldOk (natAt b 9 1) (natAt b 12 4))
      fun _ b x =>
        let (st, x) := x.order false (natAt b 9 1) (natAt b 12 4) 0
        (.now st 0, x)

/-- A host order on a field that either party may write reaches it in the same CCLK as the wall's order `w`: the wall's value is
applied (R151). BLANK and SILLAGE hold both orders. -/
def Die.hostLoses (x : Die) (w : WallCmd) : Die :=
  let f := natAt w.bytes 8 1
  x.hostCmd
    (fun b => opIs 0x04 b && natAt b 8 1 == 0 && natAt b 9 1 == f && x.owner f == 0 && f != 4 && f != 7) false never never
    (fun _ => [(8, 2), (12, 4)]) (fun _ b => fieldOk (natAt b 9 1) (natAt b 12 4))
    fun _ _ x => (.now 0x01 0, x.superseded f 0 1 w.seq)

/-- WALL_SET_FIELD (R151). `t.same`: the host's order at the head of the ring reaches the field in the same CCLK (DESIGN
CHOICE, assumption 41). -/
def execWallSetField (t : FieldTurn) (s : State) : Result :=
  onDie s t.die fun c x =>
    let x := match t.same, x.pcl.wallQ with
      | true, w :: _ => if natAt w.bytes 0 1 = 1 && x.forwards && x.wallAtOnce w then x.hostLoses w else x
      | _, _ => x
    x.wallHead c 1

/-- Whether a MODE 1 write carries bits that the seal has frozen (R154, R186, R373). -/
def Die.sealedBits (x : Die) (off : Nat) (mask : Word) : Bool :=
  x.on F.sealed && mask != 0 &&
    ((0x1868 ≤ off && off ≤ 0x1874) ||
      (match regRow off with | some r => BitVec.ofNat 32 r.rws &&& mask != 0 | none => false))

/-- A masked register write that a command makes (R186). A GCLK request completes on its own (R82, R83). Clearing HIF_CTRL.ENABLE
lets no command behind this one start (R197). -/
def Die.maskedWrite (x : Die) (c : Cmd) (off : Nat) (v mask : Word) : Ending × Die :=
  if x.sealedBits off mask then (.now 0x08 0, x)
  else if off = 0x0408 && mask.toNat % 2 ^ 24 != 0 then
    (.later, x.gclkRequest (((x.reg off &&& ~~~mask) ||| (v &&& mask)).toNat % 2 ^ 24) (some c))
  else if (regRow off).isSome then
    let was := x.on F.hifEnable
    let x := x.barWrite off v mask
    (.now 0x00 0, if was && !x.on F.hifEnable then { x with hif := { x.hif with fetched := [] } } else x)
  else (.now 0x00 0, x)

/-- SET_FIELD of MODE 1 (R186): a masked BAR0 write. -/
def execSetFieldRegister (d : DieId) (s : State) : Result :=
  onDie s d fun _ x =>
    x.hostCmd (fun b => opIs 0x04 b && natAt b 8 1 == 1) false never never (fun _ => [(8, 1), (12, 12)])
      (fun _ b => natAt b 16 4 % 4 == 0 && natAt b 16 4 < 0x8000)
      fun c b x => x.maskedWrite c (natAt b 16 4) (BitVec.ofNat 32 (natAt b 12 4)) (BitVec.ofNat 32 (natAt b 20 4))

/-- Whether an entry is a SET_FIELD of MODE 2, and its argument bytes (R186). -/
def isRtcSet (b : List Byte) : Bool := opIs 0x04 b && natAt b 8 1 == 2
def rtcUsed (_ : List Byte) : List (Nat × Nat) := [(8, 1), (24, 6)]

/-- The real-time counter that the head of the ring sets, if it executes (R65, R186). -/
def Die.rtcOf (x : Die) : Option (BitVec 48) :=
  match x.hif.fetched with
  | f :: _ =>
    if isRtcSet f.bytes && !f.bad && x.ringFree && !x.stateRefuses false false false && entryOk f.bytes (rtcUsed f.bytes) then
      some (BitVec.ofNat 48 (natAt f.bytes 24 6))
    else none
  | [] => none

/-- SET_FIELD of MODE 2, RTC_SET (R65, R186): the keeper's counter takes the value. It is the one command of a die that writes the
keeper's state. -/
def execRtcSet (d : DieId) (s : State) : Result :=
  let m : Module := match s.mod.runs, (s.die d).rtcOf with
    | true, some v => { s.mod with rtc := v }
    | _, _ => s.mod
  onDie { s with mod := m } d fun _ x =>
    x.hostCmd isRtcSet false never never rtcUsed (fun _ _ => true) fun _ _ x => (.now 0x00 0, x)

/-- TRIM_RUN's mask and IREF code in an entry (R186, R350). -/
def trimArgsOk (b : List Byte) : Bool :=
  let m := natAt b 8 1
  let code := natAt b 12 2
  1 ≤ m && m < 16 && (if bitAt m 3 then code ≤ 4095 else code == 0)

/-- TRIM_RUN (R187, R350): while the trim engine holds a command, this one waits at the head. -/
def execTrimRun (d : DieId) (s : State) : Result :=
  onDie s d fun _ x =>
    if x.hif.trim.isSome then x
    else x.hostCmd (opIs 0x07) false always never (fun _ => [(8, 1), (12, 2)]) (fun _ b => trimArgsOk b)
      fun c b x =>
        if natAt b 8 1 % 4 != 0 && !x.on F.scanOwn then (.now 0x05 0, x)
        else (.later, { x with hif := { x.hif with trim := some (jobOf c b) } }.trimNext)

/-- SILLAGE_ENTER (R321, R329). -/
def execSillageEnter (d : DieId) (s : State) : Result :=
  onDie s d fun _ x =>
    x.hostCmd (opIs 0x08) false never never (fun _ => [(8, 1)]) (fun _ b => natAt b 8 1 ≤ 1)
      fun _ b x =>
        let (st, x) := x.order false 7 1 0 (natAt b 8 1 == 1)
        (.now st 0, x)

/-- SILLAGE_EXIT (R193, R321, R329). -/
def execSillageExit (d : DieId) (s : State) : Result :=
  onDie s d fun _ x =>
    x.hostCmd (opIs 0x09) true never never (fun _ => []) (fun _ _ => true)
      fun _ _ x =>
        let (st, x) := x.order false 7 0 0
        (.now st 0, x)

/-- The rectangle that an entry arms (R186, R336). -/
def rectOf (b : List Byte) : Rect :=
  { tap := natAt b 9 1, freeze := bitAt (natAt b 10 1) 0, x := natAt b 12 2, y := natAt b 14 2, w := natAt b 16 2
    h := natAt b 18 2, expect := (List.range 4).map fun i => natAt b (20 + 4 * i) 4 }

/-- Argument bytes of BLOTTER_ARM (R186). -/
def blotterUsed (_ : List Byte) : List (Nat × Nat) := [(8, 3), (12, 24)]

/-- BLOTTER_ARM (R336): from the next frame start on. -/
def execBlotterArm (d : DieId) (s : State) : Result :=
  onDie s d fun _ x =>
    x.hostCmd (fun b => opIs 0x0A b && !bitAt (natAt b 10 1) 1) false always always blotterUsed
      (fun x b => natAt b 8 1 < 16 && natAt b 9 1 ≤ 2 && natAt b 10 1 < 4 && x.rectFits (rectOf b))
      fun _ b x =>
        let k := natAt b 8 1
        (.now 0x00 0, x.setRect k { x.rect k with next := some (some (rectOf b)) })

/-- BLOTTER_ARM with the disarm bit (R336): the other argument bytes are ignored (DEDUCED, assumption 49). -/
def execBlotterDisarm (d : DieId) (s : State) : Result :=
  onDie s d fun _ x =>
    x.hostCmd (fun b => opIs 0x0A b && bitAt (natAt b 10 1) 1) false always always blotterUsed
      (fun _ b => natAt b 8 1 < 16 && natAt b 10 1 < 4)
      fun _ b x =>
        let k := natAt b 8 1
        (.now 0x00 0, x.setRect k { x.rect k with next := some none })

/-- Sends that the Accord engine holds (R187). -/
def Die.sends (x : Die) : Nat := (x.pcl.outstanding.filter fun o => !o.missing).length

/-- Whether ACCORD_SEND's arguments are in range (R10, R115, R186). -/
def sendOk (b : List Byte) : Bool :=
  let dst := natAt b 8 1
  let len := natAt b 12 2
  (dst ≤ 0xF0 || 0xFE ≤ dst) && natAt b 9 1 ≤ 2 && natAt b 10 1 ≤ 1 && 8 ≤ len && len ≤ 44

/-- The command that ACCORD_SEND originates (R115, R123, R152). -/
def Die.newSend (x : Die) (c : Cmd) (b : List Byte) : Outstanding :=
  let dst := natAt b 8 1
  let die := natAt b 9 1
  let len := natAt b 12 2
  let auth := bitAt (natAt b 10 1) 0 || x.on F.authSign
  let seq := (look x.pcl.seqs dst).getD 0
  { dst := BitVec.ofNat 8 dst, seq := seq
    bytes := mkHeader 2 false auth dst x.addr die (dieBit x.id) seq.toNat 0 0 (if auth then len + 8 else len) ++ bytesAt b 16 len
    auth := auth, needW := dst != 0xFF && namesDie die .W, needE := dst != 0xFF && namesDie die .E, nakW := none, nakE := none
    retx := 0, sent := 1, busy := 0, stale := false, high := none, missing := false, cmd := some c }

/-- ACCORD_SEND (R123, R149, R186): while the engine holds 16 sends, it waits at the head. -/
def execAccordSend (d : DieId) (s : State) : Result :=
  onDie s d fun _ x =>
    if 16 ≤ x.sends then x
    else x.hostCmd (opIs 0x10) false always never (fun b => [(8, 3), (12, 2), (16, natAt b 12 2)]) (fun _ b => sendOk b)
      fun c b x =>
        let o := x.newSend c b
        let x : Die := { x with pcl := { x.pcl with
          seqs := assoc x.pcl.seqs o.dst.toNat (o.seq + 1), outstanding := x.pcl.outstanding ++ [o] } }
        (.later, x.sendCtrl o false)

/-- The registers that STATUS_SNAPSHOT captures, in ascending order (R386). -/
def snapshotOffs : List Nat :=
  (List.range 8192).filterMap fun i =>
    match regRow (4 * i) with
    | some r => if r.ro != 0 || r.rc != 0 || r.w1c != 0 then some (4 * i) else none
    | none => none

/-- STATUS_SNAPSHOT (R186, R386). -/
def execStatusSnapshot (d : DieId) (s : State) : Result :=
  onDie s d fun ctx x =>
    x.hostCmd (opIs 0x11) true never never (fun _ => [(8, 1), (16, 4), (24, 8)])
      (fun _ b => natAt b 8 1 ≤ 1 && 4096 ≤ hostLen b && addrOk b)
      fun _ b x =>
        let clear := natAt b 8 1 = 1
        let es := snapshotOffs.flatMap fun o => le 4 o ++ le 4 (x.view ctx o).toNat
        let bytes := le 8 x.ns ++ le 2 snapshotOffs.length ++ le 1 (b2n clear) ++ List.replicate 5 0 ++ es
        let x := x.writeHost (hostAddr b) bytes false fun _ => false
        (.now 0x00 bytes.length, if clear then snapshotOffs.foldl Die.clearRc x else x)

/-- BAD_OPCODE (R186). -/
def execBadOpcode (d : DieId) (s : State) : Result :=
  onDie s d fun _ x =>
    match x.hif.fetched with
    | f :: _ =>
      let op := natAt f.bytes 0 1
      if (op = 0 || 0x16 < op) && !f.bad && x.ringFree then ((x.popHead.complete (cmdOf f) 0x03).flush).fetchMore else x
    | [] => x

end Sys2Proof.Machine
end

