-- ==== Sys2Proof/Machine/Engines.lean ====
section
/-! DEFINITION. The host commands with an engine, and what the engines answer (R186, R187): tables (R264, R274, R289, R294,
R314), the store (R360), the ledger (R286), the panel (R278, R320), lane service (R102) and the eye scan (R104). -/

namespace Sys2Proof.Machine

/-- The fields of an engine's job, by their place in the entry (R186). -/
def Job.at (j : Job) (i n : Nat) : Nat := natAt j.args (i - 8) n
def Job.addr (j : Job) : Nat := j.at 24 8
def Job.len (j : Job) : Nat := j.at 16 4

/-- A table: its banks, its size, and what OFFSET and LENGTH are multiples of (R264, R289, R294, R314). -/
structure Table where
  banks   : Nat
  size    : Nat
  unit    : Nat
  lenUnit : Nat
deriving DecidableEq, Repr

/-- The tables, by TABLE_ID. -/
def tableOf (id : Nat) : Option Table :=
  match id with
  | 1 => some ⟨2, 0x8000, 2, 1⟩
  | 2 => some ⟨2, 83886080, 2, 2⟩
  | 3 => some ⟨1, 240, 2, 2⟩
  | 4 => some ⟨2, 384, 2, 2⟩
  | 5 => some ⟨1, 32768, 2, 2⟩
  | 6 => some ⟨2, 1734, 2, 2⟩
  | 7 => some ⟨1, 393216, 4, 4⟩
  | _ => none

/-- DRAM address of a table's bank (R222, R264, R275, R277, R293, R314). -/
def tableAt (id bank : Nat) : Nat :=
  match id with
  | 1 => 0x03000000 + 0x8000 * bank
  | 2 => bankAt bank
  | 4 => 0x03010000 + 0x400 * bank
  | 5 => 0x03011000
  | 6 => 0x03020000 + 0x800 * bank
  | _ => 0x03040000

/-- Whether TABLE_LOAD's or TABLE_READ's arguments are in range. -/
def tableOk (b : List Byte) : Bool :=
  match tableOf (natAt b 8 1) with
  | some t =>
    natAt b 9 1 < t.banks && natAt b 12 4 % t.unit == 0 && hostLen b % t.lenUnit == 0 && natAt b 12 4 + hostLen b ≤ t.size &&
      addrOk b
  | none => false

/-- Argument bytes of the TABLE commands (R186). -/
def tableUsed (_ : List Byte) : List (Nat × Nat) := [(8, 2), (12, 8), (24, 8)]

/-- Whether a bank of a table is the one in use (R193, R264, R270) (DEDUCED, assumption 39). -/
def Die.bankActive (x : Die) (id bank : Nat) : Bool :=
  match tableOf id with
  | some t => t.banks == 2 && bank == (if id = 2 then x.inuse else x.get F.tableBank)
  | none => false

/-- A load into the bank that a re-target pass builds abandons the pass (R272). -/
def Die.loadAborts (x : Die) (id bank : Nat) : Die := if id = 2 && bank != x.inuse then x.abortPass 1 else x

/-- TABLE_LOAD (R186, R187, R193, R314). -/
def execTableLoad (d : DieId) (s : State) : Result :=
  onDie s d fun _ x =>
    if x.hif.table.isSome then x
    else x.hostCmd (opIs 0x05) false always (fun b => x.bankActive (natAt b 8 1) (natAt b 9 1)) tableUsed (fun _ b => tableOk b)
      fun c b x =>
        if natAt b 8 1 = 7 && x.on F.ldbEn then (.now 0x05 0, x)
        else
          let x := x.loadAborts (natAt b 8 1) (natAt b 9 1)
          (.later, { x with hif := { x.hif with table := some (jobOf c b) } }.readHost (hostAddr b) (hostLen b))

/-- TABLE_READ (R186, R187). -/
def execTableRead (d : DieId) (s : State) : Result :=
  onDie s d fun _ x =>
    if x.hif.table.isSome then x
    else x.hostCmd (opIs 0x06) false always never tableUsed (fun _ b => tableOk b)
      fun c b x => (.later, { x with hif := { x.hif with table := some (jobOf c b) } })

/-- A command's read of host memory has failed after `n` bytes: the event names the failing address (R194). (DEDUCED,
assumption 39). -/
def Die.bufferFail (x : Die) (j : Job) (n : Nat) : Die := if j.live then x.raise 0x53 ((j.addr + n) % 2 ^ 32) else x

/-- Bytes that an engine read from host memory: cut short where an access failed (R194). -/
def takenOf (io : EngineIo) (len : Nat) : List Byte :=
  match io.hostAbort with
  | some n => io.data.take (min n len)
  | none => io.data.take len

/-- A result goes to the command's buffer, and the command completes with DETAIL the bytes written (R190, R194): `status` unless an
access fails. A command whose link has been lost writes nothing (R195) (DEDUCED, assumption 39). -/
def Die.toHost (x : Die) (j : Job) (bytes : List Byte) (io : EngineIo) (status detail : Nat) : Die :=
  if !j.live then x
  else match io.hostAbort.filter (· < bytes.length) with
    | some n => (x.writeHost j.addr (bytes.take n) false fun _ => false).completeJob j 0x0A n
    | none => (x.writeHost j.addr bytes false fun _ => false).completeJob j status detail

/-- Bytes `off … off + new.length - 1` of a list replaced. -/
def splice (old : List Byte) (off : Nat) (new : List Byte) : List Byte := old.take off ++ new ++ old.drop (off + new.length)

/-- The TABLE engine has read its data: a load ends (R264, R289, R294, R314). -/
def Die.loadDone (x : Die) (j : Job) (io : EngineIo) : Die :=
  let id := j.at 8 1
  let bs := takenOf io j.len
  let x := x.loadAborts id (j.at 9 1)
  let x : Die := if id = 3 then { x with wear := { x.wear with curves := splice x.wear.curves (j.at 12 4) bs } }
    else x.writeAs 7 true (tableAt id (j.at 9 1) + j.at 12 4) bs
  match io.hostAbort with
  | some n => (x.bufferFail j n).completeJob j 0x0A
  | none => x.completeJob j 0x00

/-- A read of DRAM for a command, up to the first uncorrectable word, which it notes, as it does the corrected ones before it (R224,
R225). -/
def Die.readToUe (x : Die) (a n : Nat) (io : EngineIo) : List Byte × Option Nat × Die :=
  match x.ueWords a n io.ue.toList with
  | [] => let (bs, x) := x.readAs 7 true a n; (bs, none, x.noteCe 7 (wordsIn io.ce (a, n)))
  | w :: _ =>
    let (bs, x) := x.readAs 7 true a (w - a)
    (bs, some w, (x.noteCe 7 (wordsIn io.ce (a, w - a))).noteUe 7 [w])

/-- TABLE_READ ends. -/
def Die.readDone (x : Die) (j : Job) (io : EngineIo) : Die :=
  let id := j.at 8 1
  let off := j.at 12 4
  if id = 3 then
    let bs := bytesAt x.wear.curves off j.len
    x.toHost j bs io 0x00 bs.length
  else
    match x.readToUe (tableAt id (j.at 9 1) + off) j.len io with
    | (bs, none, x) => x.toHost j bs io 0x00 bs.length
    | (bs, some w, x) => x.toHost j bs io 0x07 (w % 2 ^ 32)

/-- The TABLE engine ends its command. -/
def Die.tableDone (x : Die) (io : EngineIo) : Die :=
  match x.hif.table with
  | none => x
  | some j =>
    let x : Die := { x with hif := { x.hif with table := none } }
    if j.cmd.opcode = 0x05 then x.loadDone j io else x.readDone j io

/-- Whether `n` bytes of the store from `a` on lie in the map copies or in the host area (R355, R360). -/
def storeWritable (a n : Nat) : Bool :=
  (8 * flashBlock ≤ a && a + n ≤ 2312 * flashBlock) || (3128 * flashBlock ≤ a && a + n ≤ 4096 * flashBlock)

/-- LENGTH of STORE_READ and STORE_WRITE (R360). -/
def storeLenOk (b : List Byte) : Bool := 1 ≤ hostLen b && hostLen b ≤ 0x01000000

/-- Whether a STORE command has to wait at the head: the store is not ready, or its engine is busy (R187, R362).
(DEDUCED, assumption 28). -/
def Die.storeWaits (x : Die) : Bool := !x.on F.cstReady || x.hif.store.isSome

/-- The STORE engine takes a command. -/
def Die.storeJob (x : Die) (c : Cmd) (b : List Byte) : Die := { x with hif := { x.hif with store := some (jobOf c b) } }

/-- STORE_WRITE (R360): its bytes are read from the host first (DEDUCED, assumption 28). -/
def execStoreWrite (d : DieId) (s : State) : Result :=
  onDie s d fun _ x =>
    if x.storeWaits then x
    else x.hostCmd (opIs 0x0B) false never never (fun _ => [(12, 8), (24, 8)])
      (fun _ b => storeLenOk b && storeWritable (natAt b 12 4) (hostLen b) && addrOk b)
      fun c b x => (.later, (x.storeJob c b).readHost (hostAddr b) (hostLen b))

/-- STORE_READ (R360, R363). -/
def execStoreRead (d : DieId) (s : State) : Result :=
  onDie s d fun _ x =>
    if x.storeWaits then x
    else x.hostCmd (opIs 0x0C) false never never (fun _ => [(12, 8), (24, 8)])
      (fun _ b => storeLenOk b && natAt b 12 4 + hostLen b ≤ 4096 * flashBlock && addrOk b)
      fun c b x => (.later, (x.storeJob c b).urgentRead)

/-- STORE_ERASE (R360, R361). -/
def execStoreErase (d : DieId) (s : State) : Result :=
  onDie s d fun ctx x =>
    if x.storeWaits then x
    else x.hostCmd (opIs 0x0D) false never never (fun _ => [(12, 6)])
      (fun _ b =>
        let n := natAt b 16 2
        natAt b 12 4 % flashBlock == 0 && 1 ≤ n && n ≤ 4096 && storeWritable (natAt b 12 4) (n * flashBlock))
      fun c b x =>
        (.later, (x.storeJob c b).storeAsk ctx.mod.rtc.toNat (.erase (natAt b 12 4 / flashBlock) (natAt b 16 2 - 1)))

/-- Whether an operation is a host program. -/
def StoreOp.programs : StoreOp → Bool
  | .program _ _ _ => true
  | .idle | .erase _ _ | .part _ _ _ _ _ | .refresh _ _ _ => false

/-- Whether the host's program has been handed to the engine. -/
def Die.programAsked (x : Die) : Bool :=
  x.cst.op.programs || (match x.cst.queued with | some op => op.programs | none => false)

/-- The STORE engine has its bytes from the host, or has its bytes for the host (R194, R360). Erases and programs end by commands
of their own. -/
def Die.storeIo (x : Die) (rtc : Nat) (io : EngineIo) : Die :=
  match x.hif.store with
  | none => x
  | some j =>
    if j.cmd.opcode = 0x0B then
      if x.programAsked then x
      else
        let bs := takenOf io j.len
        let x := match io.hostAbort with | some n => x.bufferFail j n | none => x
        if bs.isEmpty then x.storeDone 0x0A 0 else x.storeAsk rtc (.program (j.at 12 4) bs io.hostAbort.isSome)
    else if j.cmd.opcode = 0x0C then
      let (bs, x) := { x with hif := { x.hif with store := none } }.flashSeen (j.at 12 4) j.len
      x.toHost j bs io 0x00 j.len
    else x

/-- Argument bytes of the WEAR commands (R186). -/
def wearUsed (_ : List Byte) : List (Nat × Nat) := [(16, 4), (24, 8)]

/-- Bytes of an export: the header and every counter of the half (R286) (DEDUCED, assumption 46). -/
def Die.exportLen (x : Die) : Nat := 32 + 18 * x.width * x.height

/-- WEAR_EXPORT (R286). -/
def execWearExport (d : DieId) (s : State) : Result :=
  onDie s d fun _ x =>
    if x.hif.wear.isSome then x
    else x.hostCmd (opIs 0x0E) false always never wearUsed (fun x b => x.exportLen ≤ hostLen b && addrOk b)
      fun c b x => (.later, { x with hif := { x.hif with wear := some (jobOf c b) } })

/-- WEAR_IMPORT (R286). -/
def execWearImport (d : DieId) (s : State) : Result :=
  onDie s d fun _ x =>
    if x.hif.wear.isSome then x
    else x.hostCmd (opIs 0x0F) false always never wearUsed (fun _ b => addrOk b)
      fun c b x =>
        (.later, { x with hif := { x.hif with wear := some (jobOf c b) } }.readHost (hostAddr b) (hostLen b))

/-- The panel key, or free bytes where none has been read. -/
def Die.exportKey (x : Die) : List Byte × Die :=
  match x.wear.key with
  | some k => (k, x)
  | none => ((List.range 16).map fun i => Config.freeByte (x.free + i), { x with free := x.free + 16 })

/-- WEAR_EXPORT ends (R286) (DEDUCED, assumption 46). -/
def Die.exportDone (x : Die) (j : Job) (rtc : Nat) (io : EngineIo) : Die :=
  let (key, x) := x.exportKey
  let head := key ++ le 2 0 ++ le 2 x.height ++ le 6 rtc ++ List.replicate 6 0
  match x.readToUe (ledgerAt 0) (18 * x.width * x.height) io with
  | (bs, none, x) => x.toHost j (head ++ bs) io 0x00 (head.length + bs.length)
  | (bs, some w, x) => x.toHost j (head ++ bs) io 0x07 (w % 2 ^ 32)

/-- Whether an import's header and LENGTH are consistent (R286) (DEDUCED, assumption 46). -/
def Die.importOk (x : Die) (h : List Byte) (len : Nat) : Bool :=
  natAt h 16 2 + natAt h 18 2 ≤ x.height && len == 32 + 18 * x.width * natAt h 18 2 && natAt h 26 1 ≤ 1 && natAt h 27 5 == 0

/-- One counter is imported (R286). -/
def Die.importOne (x : Die) (add : Bool) (l v : Nat) : Die :=
  let (old, x) : Nat × Die := if add then (let r := x.readAs 7 true (ledgerAt l) 6; (ofLe r.1, r.2)) else (0, x)
  x.writeAs 7 true (ledgerAt l) (le 6 (min (old + v) (2 ^ 48 - 1)))

/-- WEAR_IMPORT ends (R225, R272, R285, R286): the counters that have been moved whole are taken (DEDUCED, assumption
46). -/
def Die.importDone (x : Die) (j : Job) (io : EngineIo) : Die :=
  let bs := takenOf io j.len
  let x := match io.hostAbort with | some n => x.bufferFail j n | none => x
  if io.hostAbort.isSome && bs.length < 32 then x.completeJob j 0x0A
  else if j.len < 32 then x.completeJob j 0x07 2
  else if x.wear.key != some (bs.take 16) then x.completeJob j 0x07 1
  else if !x.importOk bs j.len then x.completeJob j 0x07 2
  else
    let first := 3 * x.width * natAt bs 16 2
    let n := (bs.length - 32) / 6
    let add := bitAt (natAt bs 26 1) 0
    let ue := if add then x.ueWords (ledgerAt first) (6 * n) io.ue.toList else []
    let n := match ue with | w :: _ => min n ((w - ledgerAt first) / 6) | [] => n
    let x := (List.range n).foldl (fun x i => x.importOne add (first + i) (natAt bs (32 + 6 * i) 6)) x
    let x := if add then x.noteCe 7 (wordsIn io.ce (ledgerAt first, 6 * n)) else x
    match ue with
    | w :: _ => (x.noteUe 7 [w]).completeJob j 0x07 (w % 2 ^ 32)
    | [] =>
      if io.hostAbort.isSome then x.completeJob j 0x0A
      else (({ x with wear := { x.wear with ledgerOk := true } }.mismatchEnds).retarget).completeJob j 0x00

/-- The WEAR engine ends its command. -/
def Die.wearDone (x : Die) (rtc : Nat) (io : EngineIo) : Die :=
  match x.hif.wear with
  | none => x
  | some j =>
    let x : Die := { x with hif := { x.hif with wear := none } }
    if j.cmd.opcode = 0x0E then x.exportDone j rtc io else x.importDone j io

/-- PANEL_ID_READ (R320): it waits while the die reads the identity record. -/
def execPanelIdRead (d : DieId) (s : State) : Result :=
  onDie s d fun _ x =>
    if x.hif.panel.isSome || x.wear.reading.isSome then x
    else x.hostCmd (opIs 0x15) false never never (fun _ => [(12, 4), (24, 8)]) (fun _ b => addrOk b)
      fun c b x =>
        (.later, ({ x with hif := { x.hif with panel := some (jobOf c b) } }.flag F.pidBusy true).pidRead (natAt b 14 2)
          (natAt b 12 2))

/-- Bytes of the identity memory that PANEL_ID_READ has: none while the bus has neither given them all nor failed. -/
def idBytes (io : EngineIo) (n : Nat) : Option (List Byte) :=
  let k := (io.busFail.filter (· < n)).getD n
  if io.data.length < k then none else some (io.data.take k)

/-- PANEL_ID_READ ends (R320) with `bs`: bytes of the identity memory, up to a failed bus transfer. -/
def Die.idReadDone (x : Die) (j : Job) (io : EngineIo) (bs : List Byte) : Die :=
  let x := x.flag F.pidBusy x.wear.reading.isSome
  if bs.length < j.at 12 2 then (x.raise 0xA5 (j.at 14 2 + bs.length)).toHost j bs io 0x07 bs.length
  else x.toHost j bs io 0x00 bs.length

/-- DEFECT_SCAN begins (R278, R310): every IC of every enabled lane is asked for its flags. -/
def Die.scanBegin (x : Die) (c : Cmd) (b : List Byte) : Die :=
  let x : Die := { x with
    hif := { x.hif with panel := some (jobOf c b) }
    ldb := { x.ldb with
      flags := [], unknown := false, scan := x.ldbLaneList.flatMap fun l => (List.range x.ics).map fun i => (l, i) } }
  (List.range 4).foldl Die.echoNext x

/-- The frame of both DEFECT_SCAN commands (R187, R193, R278): without the scan there is nothing to ask on. (DEDUCED,
assumption 38). -/
def Die.defectScan (x : Die) (is : List Byte → Bool) : Die :=
  if x.hif.panel.isSome then x
  else x.hostCmd (fun b => opIs 0x16 b && is b) false always always (fun _ => [(8, 1), (16, 4), (24, 8)])
    (fun _ b => natAt b 8 1 ≤ 1 && addrOk b)
    fun c b x => if x.on F.scanOwn then (.later, x.scanBegin c b) else (.now 0x05 0, x)

/-- DEFECT_SCAN of MODE 0 (R278); a MODE that does not exist is refused here. -/
def execDefectScan (d : DieId) (s : State) : Result :=
  onDie s d fun _ x => x.defectScan fun b => natAt b 8 1 != 1

/-- DEFECT_SCAN of MODE 1 (R278). -/
def execDefectScanInsert (d : DieId) (s : State) : Result :=
  onDie s d fun _ x => x.defectScan fun b => natAt b 8 1 == 1

/-- Whether bit `j` of an OPEN or SHORT array is set (R309). -/
def flagBit (ws : List (BitVec 16)) (j : Nat) : Bool := (ws.getD (j / 16) 0).getLsbD (j % 16)

/-- A lamp that a flag names: line, column, colour. -/
abbrev LampKey := Nat × Nat × Nat

/-- The lamps that output `j = 3k + c` of an IC drives (R278, R303, R314): one for each row address. -/
def Die.outputLamps (x : Die) (l i j : Nat) : List LampKey :=
  if x.badRange (mapAt l i (j / 3)) 4 then []
  else (List.range x.scanRatio).filterMap fun r =>
    match mapPixel (x.mapEntry l i (j / 3)) r with
    | some (px, y) => if px < x.width && y < x.height then some (y, px, j % 3) else none
    | none => none

/-- The lamps of the open flags (`short` false) or of the short flags (R278) (DEDUCED, assumption 38). -/
def Die.flaggedLamps (x : Die) (short : Bool) : List LampKey :=
  x.ldb.flags.flatMap fun f =>
    ((List.range (3 * x.chans)).filter fun j => flagBit (if short then f.2.2.2 else f.2.2.1) j).flatMap fun j =>
      x.outputLamps f.1 f.2.1 j

/-- Place a lamp in ascending order of line, column and colour (R277), once. -/
def insertLamp (k : LampKey) : List LampKey → List LampKey
  | [] => [k]
  | q :: t =>
    if q = k then q :: t
    else if q.1 < k.1 || (q.1 = k.1 && (q.2.1 < k.2.1 || (q.2.1 = k.2.1 && q.2.2 < k.2.2))) then q :: insertLamp k t
    else k :: q :: t

/-- A defect entry (R277). -/
def defectEntry (k : LampKey) (kind action : Nat) : List Byte :=
  le 2 k.2.1 ++ le 2 k.1 ++ le 1 k.2.2 ++ le 1 kind ++ le 1 action ++ [0]

/-- The flagged lamps with their kinds, in order: 1 open, 2 short. Which of the two a lamp with both flags is, the spec leaves
open: `fr` numbers the free values. -/
def Die.flagged (x : Die) (fr : Nat) : List (LampKey × Nat) :=
  let open' := x.flaggedLamps false
  let short := x.flaggedLamps true
  let keys := (open' ++ short).foldl (fun l k => insertLamp k l) []
  keys.mapIdx fun i k =>
    (k, if !short.contains k then 1 else if !open'.contains k then 2 else 1 + Config.freeNat (fr + i) % 2)

/-- Place a new entry in the table, ahead of the first entry that follows it in order (R277, R278). -/
def insertDefect (e : List Byte) : List (List Byte) → List (List Byte)
  | [] => [e]
  | q :: t => if defectKey q < defectKey e then q :: insertDefect e t else e :: q :: t

/-- Flagged lamps that are not in the table are inserted with action OFF (R225, R277, R278): the status that stands against it with
its detail, if any. -/
def Die.insertDefects (x : Die) (fs : List (LampKey × Nat)) (io : EngineIo) : Option (Option Nat) × Die :=
  let n := x.defects
  match x.readToUe (defectAt 0) (8 * n) io with
  | (_, some w, x) => (some (some (w % 2 ^ 32)), x)
  | (bs, none, x) =>
    let old := (List.range n).map fun i => bytesAt bs (8 * i) 8
    let new := fs.filter fun f => !(old.map defectKey).contains (defectKey (defectEntry f.1 0 0))
    if 4096 < n + new.length then (some none, x)
    else if new.isEmpty then (none, x)
    else
      let all := new.foldl (fun t f => insertDefect (defectEntry f.1 f.2 1) t) old
      let x := (x.writeAs 7 true (defectAt 0) all.flatten).put F.defectCount all.length
      (none, x.raise 0x98 new.length)

/-- DEFECT_SCAN ends once every IC has answered or has been given up (R278, R310) (DEDUCED, assumption 38). -/
def Die.scanDone (x : Die) (j : Job) (io : EngineIo) : Die :=
  let x := x.ldbLaneList.foldl (fun x l => x.mapRead l 0 x.ics) x
  let fs := x.flagged x.free
  let x : Die := { x with free := x.free + fs.length }
  let list := fs.flatMap fun f => defectEntry f.1 f.2 0
  let fits := list.take (8 * (j.len / 8))
  let (bad, x) : Option (Option Nat) × Die := if j.at 8 1 = 1 then x.insertDefects fs io else (none, x)
  let short := x.ldb.unknown || fits.length < list.length
  match bad with
  | some (some w) => x.toHost j fits io 0x07 w
  | some none => x.toHost j fits io 0x07 fits.length
  | none => x.toHost j fits io (if short then 0x07 else 0x00) fits.length

/-- The PANEL engine ends its command. -/
def Die.panelDone (x : Die) (io : EngineIo) : Die :=
  match x.hif.panel with
  | none => x
  | some j =>
    let y : Die := { x with hif := { x.hif with panel := none } }
    if j.cmd.opcode = 0x15 then (match idBytes io (j.at 12 2) with | some bs => y.idReadDone j io bs | none => x)
    else if x.scanOpen then x
    else y.scanDone j io

/-- Lane named in an entry. -/
def laneOf (b : List Byte) : Lane := Fin.ofNat 4 (natAt b 8 1)

/-- LANE_SERVICE (R102, R187). -/
def execLaneService (d : DieId) (s : State) : Result :=
  onDie s d fun _ x =>
    if x.hif.service.isSome then x
    else x.hostCmd (opIs 0x12) false always never (fun _ => [(8, 3), (12, 4)])
      (fun _ b => natAt b 8 1 < 4 && 1 ≤ natAt b 9 1 && natAt b 9 1 ≤ 3 && natAt b 10 1 ≤ 1)
      fun c b x =>
        if x.lanesActive then
          let k := laneOf b
          let x : Die := { x with hif := { x.hif with service := some (jobOf c b) } }
          let x := x.setLane k { x.lane k with serviceReq := some (natAt b 9 1, natAt b 10 1 == 1), prbsTried := false }
          (.later, (((x.laneTo k 7).setTraffic k false).updDouble).raise 0x2A (laneDetail k))
        else (.now 0x05 0, x)

/-- Columns and rows of an eye scan of strides SP and SV (R104). -/
def eyeColumns (sp : Nat) : Nat := 63 / sp + 1
def eyeRows (sv : Nat) : Nat := 2 * (63 - 63 % sv) / sv + 1

/-- Bytes of an eye scan's result (R104). -/
def eyeBytes (sp sv : Nat) : Nat := 16 + 2 * eyeRows sv * eyeColumns sp

/-- EYE_SCAN (R104, R187): in SILLAGE-DEEP lane 0 alone can be scanned (R193) (DEDUCED, assumption 39). -/
def execEyeScan (d : DieId) (s : State) : Result :=
  onDie s d fun _ x =>
    if x.hif.scan.isSome then x
    else x.hostCmd (opIs 0x13) false (fun b => natAt b 8 1 != 0) never (fun _ => [(8, 4), (16, 4), (24, 8)])
      (fun _ b =>
        natAt b 8 1 < 4 && 1 ≤ natAt b 9 1 && 1 ≤ natAt b 10 1 && 16 ≤ natAt b 11 1 && natAt b 11 1 ≤ 34 &&
          eyeBytes (natAt b 9 1) (natAt b 10 1) ≤ hostLen b && addrOk b)
      fun c b x => (.later, { x with hif := { x.hif with scan := some (jobOf c b), scanTime := x.ns } })

/-- EYE_SCAN_DONE (R104, R190): `counts` from +V downward, each row in rising phase; `hostAbort` bytes of the result were written
where an access failed. -/
def execEyeScanDone (d : DieId) (counts : List (BitVec 16)) (hostAbort : Option Nat) (s : State) : Result :=
  onDie s d fun _ x =>
    match x.hif.scan with
    | none => x
    | some j =>
      let sp := j.at 9 1
      let sv := j.at 10 1
      let head := le 1 (j.at 8 1) ++ le 1 sp ++ le 1 sv ++ le 1 (j.at 11 1) ++ le 2 (eyeColumns sp) ++ le 2 (eyeRows sv) ++
        le 8 x.hif.scanTime
      let bytes := head ++ (counts.take (eyeRows sv * eyeColumns sp)).flatMap fun n => le 2 n.toNat
      let x := { x with hif := { x.hif with scan := none } }.raise 0x2C (laneDetail (Fin.ofNat 4 (j.at 8 1)))
      x.toHost j bytes { data := [], hostAbort := hostAbort, busFail := none, ce := [], ue := none } 0x00 bytes.length

/-- ACCORD_SENDs to 0xFF whose parcel has left complete (R190) (DEDUCED, assumption 40). -/
def Die.accordDone (x : Die) : Die :=
  let gone := x.pcl.outstanding.filter fun o => o.dst == 0xFF && !(x.pcl.locQ.map (·.bytes)).contains o.bytes
  gone.foldl (fun x o => (x.setOutstanding o none).completeOpt o.cmd 0x00 o.detail) x

/-- ENGINE_DONE (R187): an engine answers with what the outside has supplied. A trim run, a lane service and an eye scan end by
commands of their own (DEDUCED, assumption 40). -/
def execEngineDone (d : DieId) (eng : Engine) (io : EngineIo) (s : State) : Result :=
  onDie s d fun c x =>
    match eng with
    | .table => x.tableDone io
    | .store => x.storeIo c.mod.rtc.toNat io
    | .wear => x.wearDone c.mod.rtc.toNat io
    | .panel => x.panelDone io
    | .accord => x.accordDone
    | .trim | .service | .scan => x

end Sys2Proof.Machine
end

