-- ==== Sys2Proof/Machine/Power.lean ====
section
/-! DEFINITION. The input stage, the keeper's power states and the contacts of the module (chapters 02 and 03). -/

namespace Sys2Proof.Machine

/-- Last-off causes (PWR_STATE.LAST_OFF). -/
def offSurprise : BitVec 4 := 1
def offEject : BitVec 4 := 2
def offUv : BitVec 4 := 3
def offOv : BitVec 4 := 4
def offThermal : BitVec 4 := 5
def offDormant : BitVec 4 := 6
def offInrush : BitVec 4 := 7
def offRail : BitVec 4 := 8

/-- Whether the keeper runs (R48). -/
def Module.keeperOn (m : Module) : Bool := m.phase != .off

/-- The wake request of R56. -/
def Module.wake (m : Module) : Bool := m.modEn && !m.ejectClosed && !m.hold

/-- A temperature in 0.25 °C, two's complement (PWR_TEMP). -/
def tempOf (t : BitVec 16) : Int := toSigned 16 t.toNat

/-- STATUS_BYTE (R63): OFF, VIN_UV, TEMPERATURE, CML, and bit 0 for a fault that has no bit of its own here. (DEDUCED,
assumption 36). -/
def Module.statusByte (m : Module) : Nat :=
  64 * b2n (m.phase != .on) + 8 * b2n (bitAt m.stInput.toNat 4) + 4 * b2n (m.stTemp != 0) + 2 * b2n (m.stCml != 0) +
    b2n (bitAt m.stInput.toNat 7 || m.stMfr != 0)

/-- SMB_ALERT_L goes low when a bit of STATUS_BYTE other than bits 6 and 0 becomes set (R64) (DEDUCED, assumption 36). -/
def Module.alertFrom (new old : Module) : Module :=
  if new.statusByte &&& 14 &&& (15 - old.statusByte % 16) != 0 then { new with alert := true } else new

/-- FAULT_L is low exactly in FAULT-HOLD, and while THERMAL_WARN stands with FAULT_L_ON_WARN at 1 in either copy (R64, R68). -/
def State.faultL (s : State) : Bool :=
  s.mod.phase == .faultHold || (s.mod.warn && (bitAt s.w.keep.cfg.toNat 1 || bitAt s.e.keep.cfg.toNat 1))

/-- The keeper writes its non-volatile record (R48, R65). -/
def Module.saveRecord (m : Module) : Module :=
  { m with nv := { rtc := m.rtc, uv := m.uv, ov := m.ov, lastOff := m.lastOff }, out := m.out ++ [.nvWrite] }

/-- Set a bit of both copies of PWR_STATUS (R68). -/
def State.markStatus (s : State) (bit : Nat) : State :=
  let f (x : Die) : Die := { x with keep := { x.keep with status := x.keep.status ||| BitVec.ofNat 7 (2 ^ bit) } }
  { s with w := f s.w, e := f s.e }

/-- Do something at both dies while they run (R52, R55). -/
def State.bothDies (s : State) (f : Die → Die) : State :=
  if s.mod.runs then { s with w := f s.w, e := f s.e } else s

/-- The immediate hand-off of both dies (R52, R324). -/
def State.handOff (s : State) : State := s.bothDies Die.immediateHandoff

/-- Open the input switch: the converters' watch ends, and any Drydown with it (R49, R58, R59). -/
def Module.openSwitch (m : Module) : Module :=
  { m with sw := false, conv := false, good := false, drydown := none, cool := 0 }

/-- The last-off cause that an opening by `c` records: during DRYDOWN that of the Drydown stands (R60). -/
def Module.offCause (m : Module) (c : BitVec 4) : BitVec 4 := m.drydown.getD c

/-- A die's state at entry to BOOTING (R366, R388): die reset. What the keeper holds for the die and the compensation store
stay, but for the two PWR_STATUS bits that reset to 0 (R68, R365). -/
def Die.boot (x : Die) (storeOk : Bool) : Die :=
  let x := x.cutStore
  { Die.reset x.id with
    keep := { x.keep with status := x.keep.status &&& 0x3B }
    free := x.free
    cst := { Cst.reset with flash := x.cst.flash, deviceOk := storeOk } }

/-- KEEPER_START (R35, R48, R55, R56, R65, R68) (DESIGN CHOICE, assumption 7). The keeper-held bits of PWR_STATUS start at 0, and
STATUS_MFR_SPECIFIC bit 3 follows the stored cause (DESIGN CHOICE, assumption 50). -/
def execKeeperStart (maddr : BitVec 3) (nvOk modEn ejectClosed : Bool) (s : State) : Result :=
  onMod s fun s =>
    if s.mod.phase = .off then
      let nv : NvRecord := if nvOk then s.mod.nv else { rtc := 0, uv := 0, ov := 0, lastOff := 0 }
      { s with
        mod := { s.mod with
          phase := .inserting, present := true, maddr := maddr, modEn := modEn, modEnFell := false
          ejectClosed := ejectClosed, hold := false, rtc := nv.rtc, uv := nv.uv, ov := nv.ov, lastOff := nv.lastOff
          fault := none, stInput := 0, stTemp := 0, stCml := 0, stMfr := if nv.lastOff = offSurprise then 8 else 0
          alert := false, warn := false }
        w := { s.w with keep := { cfg := 1, status := 0 } }
        e := { s.e with keep := { cfg := 1, status := 0 } } }
    else s

/-- The module goes to OFF (R48, R55): an open switch is left open, dies that run hand off, and the keeper writes its
record while its rail holds up. -/
def State.goOff (s : State) : State :=
  let s := if s.mod.sw then { s.handOff with mod := s.handOff.mod.openSwitch } else s
  { s with mod := { s.mod.saveRecord with phase := .off, fault := none, alert := false, warn := false } }

/-- KEEPER_STOP (R48). -/
def execKeeperStop (s : State) : Result :=
  onMod s fun s => if s.mod.keeperOn then s.goOff else s

/-- PRESENT_L_OPEN (R27, R52, R55, R60, R61). With the switch still closed it is a surprise removal. -/
def execPresentLOpen (s : State) : Result :=
  onMod s fun s =>
    let s := { s with mod := { s.mod with present := false } }
    if s.mod.keeperOn then
      let s := if s.mod.sw then { s with mod := { s.mod with lastOff := s.mod.offCause offSurprise } } else s
      s.goOff
    else s

/-- INSERTION_SETTLED (R55). -/
def execInsertionSettled (s : State) : Result :=
  onMod s fun s => if s.mod.phase = .inserting then { s with mod := { s.mod with phase := .dormant } } else s

/-- BULK_RAMP_DONE (R50). -/
def execBulkRampDone (s : State) : Result :=
  onMod s fun s => if s.mod.sw && !s.mod.conv then { s with mod := { s.mod with conv := true } } else s

/-- Enter FAULT-HOLD (R55, R58): the switch is open, and the fault is recorded as itself (R60). -/
def State.enterFault (s : State) (f : FaultCause) (c : BitVec 4) (bit : Nat) : State :=
  let s := { s with mod := { s.mod.openSwitch with
    phase := .faultHold, fault := some f, lastOff := c, modEnFell := false } }
  s.markStatus bit

/-- INRUSH_FAULT (R50). -/
def execInrushFault (s : State) : Result :=
  onMod s fun s =>
    if s.mod.sw && !s.mod.conv then
      let t := s.enterFault .inrush offInrush 4
      { t with mod := { t.mod with stMfr := t.mod.stMfr ||| 2 }.alertFrom s.mod }
    else s

/-- The store's device identity has been read (R362): a wrong or unreadable one is reported, and the store never becomes
ready. -/
def Die.storeProbe (x : Die) : Die := if x.cst.deviceOk then x else (x.flag F.deviceFail true).raise 0xD9

/-- POWER_GOOD (R54, R55, R366, R367): both dies are reset and enter BOOTING. -/
def execPowerGood (storeOkW storeOkE : Bool) (s : State) : Result :=
  onMod s fun s =>
    if s.mod.sw && s.mod.conv && !s.mod.good then
      { s with
        mod := { s.mod with good := true, diesUp := true, phase := .on }
        w := (s.w.boot storeOkW).storeProbe
        e := (s.e.boot storeOkE).storeProbe }
    else s

/-- RAIL_FAULT as a state change (R59): the hand-off of R52 is made first. -/
def State.railFault (s : State) : State :=
  let t := s.handOff.enterFault .rail offRail 5
  { t with mod := { t.mod with stMfr := t.mod.stMfr ||| 4 }.alertFrom s.mod }

/-- CONVERTER_START_TIMEOUT (R59). -/
def execConverterStartTimeout (s : State) : Result :=
  onMod s fun s => if s.mod.sw && s.mod.conv && !s.mod.good then s.railFault else s

/-- RAIL_FAULT (R59): a converter that has reached power good since the switch closed leaves ±8 %; the others may still be
starting. -/
def execRailFault (s : State) : Result :=
  onMod s fun s => if s.mod.sw && s.mod.conv then s.railFault else s

/-- Add one to a 32-bit trip count, which saturates (PWR_UV_COUNT). -/
def tripUp (n : BitVec 32) : BitVec 32 := if n = 0xFFFFFFFF then n else n + 1

/-- UNDERVOLTAGE (R49, R52, R55, R60, R64). STATUS_INPUT bit 3 is set with bit 4 (DESIGN CHOICE, assumption 50). -/
def execUndervoltage (s : State) : Result :=
  onMod s fun s =>
    if s.mod.sw then
      let t := (s.handOff.markStatus 0)
      { t with mod := { t.mod.openSwitch with
          phase := .dormant, uv := tripUp t.mod.uv, stInput := t.mod.stInput ||| 0x18
          lastOff := t.mod.offCause offUv }.alertFrom s.mod }
    else s

/-- Whether the module retries by itself after an overvoltage: OV_AUTORETRY is 1 in both copies (R68). -/
def State.ovRetry (s : State) : Bool := bitAt s.w.keep.cfg.toNat 0 && bitAt s.e.keep.cfg.toNat 0

/-- OVERVOLTAGE (R49, R51, R52, R55, R56, R60). -/
def execOvervoltage (s : State) : Result :=
  onMod s fun s =>
    if s.mod.sw then
      let t := (s.handOff.markStatus 1)
      { t with mod := { t.mod.openSwitch with
          phase := .dormant, ov := tripUp t.mod.ov, stInput := t.mod.stInput ||| 0x80
          lastOff := t.mod.offCause offOv, hold := t.mod.hold || !t.ovRetry }.alertFrom s.mod }
    else s

/-- A die at the end of its supply: logic, scratch and DRAM are lost; what the keeper holds for it and the store stay (R365). -/
def Die.unpowered (x : Die) : Die :=
  let x := x.cutStore
  { Die.reset x.id with
    keep := x.keep
    free := x.free
    cst := { Cst.reset with flash := x.cst.flash } }

/-- The dies stop (R50, R52). -/
def State.diesStop (s : State) : State :=
  if s.mod.diesUp then { s with mod := { s.mod with diesUp := false }, w := s.w.unpowered, e := s.e.unpowered } else s

/-- BULK_DEPLETED (R52): the dies stop. -/
def execBulkDepleted (s : State) : Result :=
  onMod s fun s => if s.mod.sw then s else s.diesStop

/-- INPUT_SWITCH_CLOSE (R49, R50, R56). The converters are off during the bulk ramp, so dies that the bulk capacitance still held
up stop with it. -/
def execInputSwitchClose (s : State) : Result :=
  onMod s fun s =>
    if s.mod.phase = .dormant && !s.mod.sw && s.mod.present && s.mod.wake then
      let s := s.diesStop
      { s with mod := { s.mod with sw := true, conv := false, good := false } }
    else s

/-- THERMAL_WARN (R45, R64, R68): above 95 °C at the baseplate reference point. -/
def execThermalWarn (base : BitVec 16) (s : State) : Result :=
  onMod s fun s =>
    if s.mod.keeperOn && !s.mod.warn && 380 < tempOf base then
      let t := (s.bothDies fun x => x.raise 0x06 base.toNat).markStatus 2
      { t with mod := { t.mod with
          warn := true, stTemp := t.mod.stTemp ||| 0x40, meas := { t.mod.meas with base := base } }.alertFrom s.mod }
    else s

/-- THERMAL_WARN_END (R64): back at 95 °C or below. -/
def execThermalWarnEnd (base : BitVec 16) (s : State) : Result :=
  onMod s fun s =>
    if s.mod.warn && tempOf base ≤ 380 then
      { s with mod := { s.mod with warn := false, meas := { s.mod.meas with base := base } } }
    else s

/-- THERMAL_TRIP (R45, R55): a die above 125 °C, in any state of the module with the keeper running, and so also while the bulk
capacitance holds the dies up; dies that still run raise the event and hand off (DEDUCED, assumption 15). -/
def execThermalTrip (d : DieId) (die base : BitVec 16) (s : State) : Result :=
  onMod s fun s =>
    if s.mod.keeperOn && s.mod.diesUp && 500 < tempOf die then
      let t := s.bothDies fun x => (x.raise 0x07 (die.toNat + 65536 * base.toNat)).immediateHandoff
      let t := t.enterFault .thermal offThermal 3
      let cool := if s.mod.sw then 0 else s.mod.cool
      let meas := match d with
        | .W => { t.mod.meas with dieW := die, base := base }
        | .E => { t.mod.meas with dieE := die, base := base }
      { t with mod := { t.mod with stTemp := t.mod.stTemp ||| 0x80, meas := meas, cool := cool }.alertFrom s.mod }
    else s

/-- The module is sent to DORMANT (R55, R60): through DRYDOWN where a die is past BOOTING, at once where both dies are in
BOOTING, and by ending the bulk ramp where that is under way. `why` is DRYDOWN_START's detail, `c` the last-off cause, which the
first two record and the third does not (DEDUCED, assumption 15; DESIGN CHOICE, assumption 50). -/
def State.goDormant (s : State) (why : Nat) (c : BitVec 4) : State :=
  if s.mod.phase = .on then
    if s.mod.drydown.isSome then s
    else if s.w.power = .booting && s.e.power = .booting then
      { s with mod := { s.mod.openSwitch with phase := .dormant, lastOff := c } }
    else
      let t := s.bothDies fun x => x.enterDrydown why
      { t with mod := { t.mod with drydown := some c } }
  else if s.mod.sw then { s with mod := s.mod.openSwitch }
  else s

/-- EJECT_L_FILTERED (R36, R55, R60, R334). -/
def execEjectLFiltered (s : State) : Result :=
  onMod s fun s =>
    if s.mod.keeperOn then
      ({ s with mod := { s.mod with ejectClosed := true } }.markStatus 6).goDormant 1 offEject
    else s

/-- EJECT_L_RELEASE (R56, R60). -/
def execEjectLRelease (s : State) : Result :=
  onMod s fun s => if s.mod.keeperOn then { s with mod := { s.mod with ejectClosed := false } } else s

/-- MOD_EN_LOW (R55, R57, R334). -/
def execModEnLow (s : State) : Result :=
  onMod s fun s =>
    if s.mod.keeperOn then { s with mod := { s.mod with modEn := false, modEnFell := true } }.goDormant 2 offDormant else s

/-- Whether FAULT-HOLD may clear (R58): a thermal fault only below 90 °C at the baseplate and 60 s after the switch opened. -/
def Module.mayClear (m : Module) : Bool := m.fault != some .thermal || (tempOf m.meas.base < 360 && 60 ≤ m.cool)

/-- Clear FAULT-HOLD where R58 allows. -/
def Module.clearFault (m : Module) : Module :=
  if m.phase = .faultHold && m.mayClear then { m with phase := .dormant, fault := none } else m

/-- MOD_EN_RISE (R56, R58). -/
def execModEnRise (s : State) : Result :=
  onMod s fun s =>
    if s.mod.keeperOn && !s.mod.modEn then
      let m := { s.mod with modEn := true, hold := false }
      { s with mod := { (if s.mod.modEnFell then m.clearFault else m) with modEnFell := false } }
    else s

/-- RTC_TICK (R65): one second of the keeper's counter, with the readings as they then stand. Store work that was put off until
ACTIVE or SILLAGE-RELAY goes on at it (R364) (DEDUCED, assumption 28). -/
def execRtcTick (m : Meas) (s : State) : Result :=
  onMod s fun s =>
    if s.mod.keeperOn then
      let s : State := { s with mod := { s.mod with rtc := s.mod.rtc + 1, meas := m, cool := s.mod.cool + 1 } }
      s.bothDies fun x => x.storeKick s.mod.rtc.toNat
    else s

/-- RTC_SAVE (R65). -/
def execRtcSave (s : State) : Result :=
  onMod s fun s => if s.mod.keeperOn then { s with mod := s.mod.saveRecord } else s

/-- Whether a die has finished steps 2–4 of R334. -/
def Die.drydownDone (x : Die) : Bool := x.power == .booting || (x.power == .drydown && !x.forwarding && !x.on F.scanOwn && x.takeover == .none)

/-- DRYDOWN_COMPLETE (R60, R334) (DEDUCED, assumption 15). -/
def execDrydownComplete (s : State) : Result :=
  onMod s fun s =>
    match s.mod.drydown with
    | some c =>
      if s.w.drydownDone && s.e.drydownDone then
        { s with mod := { s.mod.openSwitch with phase := .dormant, lastOff := c } }
      else s
    | none => s

/-- Groups of a die's output contacts (R33). -/
inductive Contacts where
  | ldb
  | row
  | quodo
  | pcie
  | iref
deriving DecidableEq, Repr

/-- Whether a die drives a group of its outputs; otherwise they are high-impedance (R33, R34, R54, R76). In BOOTING only the PCI
Express endpoint is enabled (DESIGN CHOICE, assumption 51). -/
def State.drives (s : State) (d : DieId) (g : Contacts) : Bool :=
  let x := s.die d
  s.mod.runs && match g with
    | .ldb => x.ldb.dclk
    | .row => x.ldb.driving
    | .quodo => x.power != .booting && x.on F.qEnable && !x.clk.txOff
    | .pcie => x.on F.hifLinkUp
    | .iref => x.power != .booting

/-- IREF in volts for a 12-bit code, from VREFCAL in volts (R43). -/
def irefVolts (code : Nat) (vrefcal : Rat) : Rat := (1 / 2 + code / 4095) * (vrefcal / (6 / 5))

/-- What a die puts on IREF (R33, R43). -/
def State.iref (s : State) (d : DieId) (vrefcal : Rat) : Option Rat :=
  if s.drives d .iref then some (irefVolts ((s.die d).get F.irefCode) vrefcal) else none

/-- STAT_LED lit (R35): the keeper drives it in every state but OFF. What it shows the spec does not say (DESIGN CHOICE,
assumption 51). -/
def State.statLed (s : State) : Bool := s.mod.keeperOn && Config.statLed s.mod.rtc.toNat

end Sys2Proof.Machine
end

