-- ==== Sys2Proof/Machine/Smbus.lean ====
section
/-! DEFINITION. The keeper's SMBus port (R62–R65). -/

namespace Sys2Proof.Machine

/-- The keeper's 7-bit address (R62). -/
def Module.smbusAddr (m : Module) : Nat := 0x58 + m.maddr.toNat

/-- The keeper acknowledges its address in every state but OFF and INSERTING (R62, R35). -/
def Module.answers (m : Module) : Bool := m.phase != .off && m.phase != .inserting

/-- The command codes of R63. -/
def smbusCodes : List Nat :=
  [0x01, 0x03, 0x19, 0x78, 0x79, 0x7C, 0x7D, 0x7E, 0x80, 0x88, 0x89, 0x8D, 0x8E, 0x8F, 0x97, 0x98, 0x99, 0x9A, 0x9E,
   0xD0, 0xD1, 0xD2, 0xD3, 0xD4, 0xD5, 0xD6]

/-- A word in LINEAR11 format: exponent in [15:11], mantissa in [10:0], both two's complement (R63). -/
def linear11 (exp : Int) (mant : Nat) : List Byte := le 2 (ofSigned 5 exp * 2 ^ 11 + mant % 2 ^ 11)

/-- An SMBus block: its byte count first. -/
def block (bs : List Byte) : List Byte := le 1 bs.length ++ bs

/-- Put something on the SMBus contacts. -/
def State.smbus (s : State) (o : Out) : State := { s with mod := { s.mod with out := s.mod.out ++ [o] } }

/-- A read of the keeper: its data, and a PEC byte where the master clocks one more (R62). -/
def State.smRead (s : State) (code : Nat) (bytes : List Byte) (pec : Bool) : State :=
  if s.mod.answers then
    let a := 2 * s.mod.smbusAddr
    let p := pecOf (le 1 a ++ le 1 code ++ le 1 (a + 1) ++ bytes)
    s.smbus (.smbus (if pec then bytes ++ [p] else bytes))
  else s.smbus .smbusNack

/-- A write of the keeper: a wrong PEC byte discards it and sets STATUS_CML bit 5 (R62) (DEDUCED, assumption 36). -/
def State.smWrite (s : State) (code : Nat) (bytes : List Byte) (pec : Option Byte) (f : State → State) : State :=
  if s.mod.answers then
    let p := pecOf (le 1 (2 * s.mod.smbusAddr) ++ le 1 code ++ bytes)
    if pec = none || pec = some p then (f s).smbus .smbusAck
    else
      { s with mod := { s.mod with stCml := s.mod.stCml ||| 0x20 }.alertFrom s.mod }.smbus .smbusNack
  else s.smbus .smbusNack

/-- OPERATION's data byte (R63). -/
def Module.opByte (m : Module) : List Byte := [if m.phase = .on then 0x80 else 0x00]

/-- A die's state in the coding of PWR_STATE (R63). -/
def State.stateCode (s : State) (x : Die) : Nat :=
  match s.mod.phase with
  | .off => 0
  | .inserting => 1
  | .dormant => 2
  | .faultHold => 8
  | .on => x.power.code

/-- "LQ-4816-" in ASCII (R63). -/
def modelChars : List Byte := [0x4C, 0x51, 0x2D, 0x34, 0x38, 0x31, 0x36, 0x2D]

/-- The variant letter, A or K (R1, R394, R395). -/
def variantChar : Byte := if Config.variantK then 0x4B else 0x41

/-- Digit `i` of YYWWNNNNNN (R394). -/
def serialDigit (i : Nat) : Nat := Config.serialDigit i % 10

/-- The check digit: weights 3, 1, 3, 1 … from the left (R394). -/
def checkDigit (digit : Nat → Nat) : Nat :=
  let t := (List.range 10).foldl (fun t i => t + digit i * (if i % 2 = 0 then 3 else 1)) 0
  (10 - t % 10) % 10

/-- A decimal digit in ASCII. -/
def digitChar (n : Nat) : Byte := BitVec.ofNat 8 (0x30 + n)

/-- The serial's 14 characters (R394) (UNVERIFIED, assumption 35). -/
def serialChars : List Byte :=
  (List.range 4).map (fun i => digitChar (serialDigit i)) ++ [0x2D] ++
    (List.range 6).map (fun i => digitChar (serialDigit (i + 4))) ++ [0x2D, variantChar, digitChar (checkDigit serialDigit)]

/-- OPERATION (R63): read byte: 0x80 while any die is powered. -/
def execOperation (pec : Bool) (s : State) : Result :=
  onMod s fun s => s.smRead 0x01 s.mod.opByte pec

/-- CAPABILITY (R63): PEC, 100 kHz, SMBALERT. -/
def execCapability (pec : Bool) (s : State) : Result :=
  onMod s fun s => s.smRead 0x19 [0x90] pec

/-- STATUS_BYTE (R63): the summary bits. -/
def execStatusByte (pec : Bool) (s : State) : Result :=
  onMod s fun s => s.smRead 0x78 (le 1 s.mod.statusByte) pec

/-- STATUS_WORD (R63): STATUS_BYTE with INPUT at bit 13 and MFR_SPECIFIC at bit 12. -/
def execStatusWord (pec : Bool) (s : State) : Result :=
  onMod s fun s => s.smRead 0x79 (le 2 (s.mod.statusByte + 2 ^ 13 * b2n (s.mod.stInput != 0) + 2 ^ 12 * b2n (s.mod.stMfr != 0))) pec

/-- STATUS_INPUT (R63). -/
def execStatusInput (pec : Bool) (s : State) : Result :=
  onMod s fun s => s.smRead 0x7c [s.mod.stInput] pec

/-- STATUS_TEMPERATURE (R63). -/
def execStatusTemperature (pec : Bool) (s : State) : Result :=
  onMod s fun s => s.smRead 0x7d [s.mod.stTemp] pec

/-- STATUS_CML (R63). -/
def execStatusCml (pec : Bool) (s : State) : Result :=
  onMod s fun s => s.smRead 0x7e [s.mod.stCml] pec

/-- STATUS_MFR_SPECIFIC (R63). -/
def execStatusMfrSpecific (pec : Bool) (s : State) : Result :=
  onMod s fun s => s.smRead 0x80 [s.mod.stMfr] pec

/-- READ_TEMPERATURE_1 (R63): the baseplate. -/
def execReadTemperature1 (pec : Bool) (s : State) : Result :=
  onMod s fun s => s.smRead 0x8d (linear11 (-2) s.mod.meas.base.toNat) pec

/-- READ_TEMPERATURE_2 (R63): die W; 0 while it is unpowered. -/
def execReadTemperature2 (pec : Bool) (s : State) : Result :=
  onMod s fun s => s.smRead 0x8e (if s.mod.diesUp then linear11 (-2) s.mod.meas.dieW.toNat else [0, 0]) pec

/-- READ_TEMPERATURE_3 (R63): die E; 0 while it is unpowered. -/
def execReadTemperature3 (pec : Bool) (s : State) : Result :=
  onMod s fun s => s.smRead 0x8f (if s.mod.diesUp then linear11 (-2) s.mod.meas.dieE.toNat else [0, 0]) pec

/-- PMBUS_REVISION (R63). -/
def execPmbusRevision (pec : Bool) (s : State) : Result :=
  onMod s fun s => s.smRead 0x98 [0x33] pec

/-- MFR_ID (R63): "OVRUORN". -/
def execMfrId (pec : Bool) (s : State) : Result :=
  onMod s fun s => s.smRead 0x99 (block [0x4F, 0x56, 0x52, 0x55, 0x4F, 0x52, 0x4E]) pec

/-- MFR_MODEL (R63): the model with its variant. -/
def execMfrModel (pec : Bool) (s : State) : Result :=
  onMod s fun s => s.smRead 0x9a (block (modelChars ++ [variantChar])) pec

/-- MFR_SERIAL (R394): the 14 characters YYWW-NNNNNN-VC. -/
def execMfrSerial (pec : Bool) (s : State) : Result :=
  onMod s fun s => s.smRead 0x9e (block serialChars) pec

/-- MFR_STATE (R63): each die in its PWR_STATE code. -/
def execMfrState (pec : Bool) (s : State) : Result :=
  onMod s fun s => s.smRead 0xd2 (le 1 (s.stateCode s.w) ++ le 1 (s.stateCode s.e)) pec

/-- MFR_RTC_READ (R63). -/
def execMfrRtcRead (pec : Bool) (s : State) : Result :=
  onMod s fun s => s.smRead 0xd3 (block (le 6 s.mod.rtc.toNat)) pec

/-- MFR_LAST_OFF (R63). -/
def execMfrLastOff (pec : Bool) (s : State) : Result :=
  onMod s fun s => s.smRead 0xd4 (le 1 s.mod.lastOff.toNat) pec

/-- MFR_DORMANT_HOLD_READ (R63). -/
def execMfrDormantHoldRead (pec : Bool) (s : State) : Result :=
  onMod s fun s => s.smRead 0xd5 (le 1 (b2n s.mod.hold)) pec

/-- MFR_TRIP_COUNTS (R63). -/
def execMfrTripCounts (pec : Bool) (s : State) : Result :=
  onMod s fun s => s.smRead 0xd6 (block (le 4 s.mod.uv.toNat ++ le 4 s.mod.ov.toNat)) pec

/-- READ_VIN (R63): LINEAR11 with exponent -3; the mantissa is what the keeper measures. -/
def execReadVin (m : BitVec 11) (pec : Bool) (s : State) : Result :=
  onMod s fun s => s.smRead 0x88 (linear11 (-3) m.toNat) pec

/-- READ_IIN (R63): LINEAR11 with exponent -9; the mantissa is what the keeper measures. -/
def execReadIin (m : BitVec 11) (pec : Bool) (s : State) : Result :=
  onMod s fun s => s.smRead 0x89 (linear11 (-9) m.toNat) pec

/-- READ_PIN (R63): LINEAR11 with exponent -4; the mantissa is what the keeper measures. -/
def execReadPin (m : BitVec 11) (pec : Bool) (s : State) : Result :=
  onMod s fun s => s.smRead 0x97 (linear11 (-4) m.toNat) pec

/-- CLEAR_FAULTS (R58, R63, R64). -/
def execClearFaults (pec : Option Byte) (s : State) : Result :=
  onMod s fun s => s.smWrite 0x03 [] pec fun s =>
    { s with mod := { s.mod.clearFault with stInput := 0, stTemp := 0, stCml := 0, stMfr := 0, alert := false } }

/-- MFR_WAKE (R56, R57): clears MFR_DORMANT_HOLD; while MOD_EN is low it only sets WAKE_REFUSED. -/
def execMfrWake (pec : Option Byte) (s : State) : Result :=
  onMod s fun s => s.smWrite 0xD0 [] pec fun s =>
    if s.mod.modEn then { s with mod := { s.mod with hold := false } }
    else { s with mod := { s.mod with stMfr := s.mod.stMfr ||| 1 } }

/-- Set MFR_DORMANT_HOLD and start the transition to DORMANT (R55, R56, R334). -/
def State.holdDormant (s : State) : State :=
  { s with mod := { s.mod with hold := true } }.goDormant 3 offDormant

/-- MFR_GO_DORMANT (R55, R56, R334). -/
def execMfrGoDormant (pec : Option Byte) (s : State) : Result :=
  onMod s fun s => s.smWrite 0xD1 [] pec State.holdDormant

/-- MFR_RTC_WRITE (R63, R65). -/
def execMfrRtcWrite (rtc : BitVec 48) (pec : Option Byte) (s : State) : Result :=
  onMod s fun s => s.smWrite 0xD3 (block (le 6 rtc.toNat)) pec fun s => { s with mod := { s.mod with rtc := rtc } }

/-- MFR_DORMANT_HOLD_SET (R56, R334): a write with bit 0 at 1; the other bits have no meaning. -/
def execMfrDormantHoldSet (hi : BitVec 7) (pec : Option Byte) (s : State) : Result :=
  onMod s fun s => s.smWrite 0xD5 (le 1 (2 * hi.toNat + 1)) pec State.holdDormant

/-- MFR_DORMANT_HOLD_CLEAR (R56, R57): a write with bit 0 at 0 clears the hold and acts as MFR_WAKE (DEDUCED,
assumption 15). -/
def execMfrDormantHoldClear (hi : BitVec 7) (pec : Option Byte) (s : State) : Result :=
  onMod s fun s => s.smWrite 0xD5 (le 1 (2 * hi.toNat)) pec fun s =>
    { s with mod := { s.mod with
        hold := false, stMfr := if s.mod.modEn then s.mod.stMfr else s.mod.stMfr ||| 1 } }

/-- SMBUS_INVALID_COMMAND (R63): a code outside the table is not acknowledged and sets STATUS_CML bit 7. -/
def execSmbusInvalidCommand (code : Byte) (s : State) : Result :=
  onMod s fun s =>
    if s.mod.answers then
      if smbusCodes.contains code.toNat then s
      else { s with mod := { s.mod with stCml := s.mod.stCml ||| 0x80 }.alertFrom s.mod }.smbus .smbusNack
    else s.smbus .smbusNack

/-- ALERT_RESPONSE (R62, R64): while SMB_ALERT_L is low the keeper answers with its address and releases it. -/
def execAlertResponse (pec : Bool) (s : State) : Result :=
  onMod s fun s =>
    if s.mod.alert && s.mod.answers then
      let a := le 1 (2 * s.mod.smbusAddr)
      let p := pecOf (0x19 :: a)
      { s with mod := { s.mod with alert := false } }.smbus (.smbus (if pec then a ++ [p] else a))
    else s.smbus .smbusNack

/-- SMBUS_CLOCK_LOW_TIMEOUT (R62): the transaction under way is abandoned. Transactions are whole commands here, so one that
is abandoned has done nothing. -/
def execSmbusClockLowTimeout (s : State) : Result := onMod s fun s => s

end Sys2Proof.Machine
end

