-- ==== Sys2Proof/Machine/Dispatch.lean ====
section
/-! DEFINITION. One arm for each command: the meaning that its family's file gives it. -/

namespace Sys2Proof.Machine

/-- The effect of a command on everything but the queue. -/
def exec (i : Instr) (s : State) : Host.Outcome State Fault Refusal :=
  match i with
  | .keeperStart maddr nvOk modEn ejectClosed => Sys2Proof.Machine.execKeeperStart maddr nvOk modEn ejectClosed s
  | .keeperStop => Sys2Proof.Machine.execKeeperStop s
  | .presentLOpen => Sys2Proof.Machine.execPresentLOpen s
  | .insertionSettled => Sys2Proof.Machine.execInsertionSettled s
  | .inputSwitchClose => Sys2Proof.Machine.execInputSwitchClose s
  | .bulkRampDone => Sys2Proof.Machine.execBulkRampDone s
  | .inrushFault => Sys2Proof.Machine.execInrushFault s
  | .powerGood storeOkW storeOkE => Sys2Proof.Machine.execPowerGood storeOkW storeOkE s
  | .converterStartTimeout => Sys2Proof.Machine.execConverterStartTimeout s
  | .railFault => Sys2Proof.Machine.execRailFault s
  | .undervoltage => Sys2Proof.Machine.execUndervoltage s
  | .overvoltage => Sys2Proof.Machine.execOvervoltage s
  | .bulkDepleted => Sys2Proof.Machine.execBulkDepleted s
  | .thermalWarn base => Sys2Proof.Machine.execThermalWarn base s
  | .thermalTrip d die base => Sys2Proof.Machine.execThermalTrip d die base s
  | .ejectLFiltered => Sys2Proof.Machine.execEjectLFiltered s
  | .ejectLRelease => Sys2Proof.Machine.execEjectLRelease s
  | .modEnLow => Sys2Proof.Machine.execModEnLow s
  | .modEnRise => Sys2Proof.Machine.execModEnRise s
  | .rtcTick m => Sys2Proof.Machine.execRtcTick m s
  | .rtcSave => Sys2Proof.Machine.execRtcSave s
  | .operation pec => Sys2Proof.Machine.execOperation pec s
  | .clearFaults pec => Sys2Proof.Machine.execClearFaults pec s
  | .capability pec => Sys2Proof.Machine.execCapability pec s
  | .statusByte pec => Sys2Proof.Machine.execStatusByte pec s
  | .statusWord pec => Sys2Proof.Machine.execStatusWord pec s
  | .statusInput pec => Sys2Proof.Machine.execStatusInput pec s
  | .statusTemperature pec => Sys2Proof.Machine.execStatusTemperature pec s
  | .statusCml pec => Sys2Proof.Machine.execStatusCml pec s
  | .statusMfrSpecific pec => Sys2Proof.Machine.execStatusMfrSpecific pec s
  | .readVin m pec => Sys2Proof.Machine.execReadVin m pec s
  | .readIin m pec => Sys2Proof.Machine.execReadIin m pec s
  | .readTemperature1 pec => Sys2Proof.Machine.execReadTemperature1 pec s
  | .readTemperature2 pec => Sys2Proof.Machine.execReadTemperature2 pec s
  | .readTemperature3 pec => Sys2Proof.Machine.execReadTemperature3 pec s
  | .readPin m pec => Sys2Proof.Machine.execReadPin m pec s
  | .pmbusRevision pec => Sys2Proof.Machine.execPmbusRevision pec s
  | .mfrId pec => Sys2Proof.Machine.execMfrId pec s
  | .mfrModel pec => Sys2Proof.Machine.execMfrModel pec s
  | .mfrSerial pec => Sys2Proof.Machine.execMfrSerial pec s
  | .mfrWake pec => Sys2Proof.Machine.execMfrWake pec s
  | .mfrGoDormant pec => Sys2Proof.Machine.execMfrGoDormant pec s
  | .mfrState pec => Sys2Proof.Machine.execMfrState pec s
  | .mfrRtcRead pec => Sys2Proof.Machine.execMfrRtcRead pec s
  | .mfrRtcWrite rtc pec => Sys2Proof.Machine.execMfrRtcWrite rtc pec s
  | .mfrLastOff pec => Sys2Proof.Machine.execMfrLastOff pec s
  | .mfrDormantHoldRead pec => Sys2Proof.Machine.execMfrDormantHoldRead pec s
  | .mfrDormantHoldSet hi pec => Sys2Proof.Machine.execMfrDormantHoldSet hi pec s
  | .mfrDormantHoldClear hi pec => Sys2Proof.Machine.execMfrDormantHoldClear hi pec s
  | .mfrTripCounts pec => Sys2Proof.Machine.execMfrTripCounts pec s
  | .smbusInvalidCommand code => Sys2Proof.Machine.execSmbusInvalidCommand code s
  | .alertResponse pec => Sys2Proof.Machine.execAlertResponse pec s
  | .smbusClockLowTimeout => Sys2Proof.Machine.execSmbusClockLowTimeout s
  | .cclkLock d => Sys2Proof.Machine.execCclkLock d s
  | .bootRefclkTimeout d => Sys2Proof.Machine.execBootRefclkTimeout d s
  | .refclkLost d => Sys2Proof.Machine.execRefclkLost d s
  | .refclkHoldoverExpired d => Sys2Proof.Machine.execRefclkHoldoverExpired d s
  | .refclkReturn d => Sys2Proof.Machine.execRefclkReturn d s
  | .refclkRestored d => Sys2Proof.Machine.execRefclkRestored d s
  | .ebSlip d k => Sys2Proof.Machine.execEbSlip d k s
  | .gclkRequest d v => Sys2Proof.Machine.execGclkRequest d v s
  | .gclkIdleLock d => Sys2Proof.Machine.execGclkIdleLock d s
  | .gclkLockTimeout d => Sys2Proof.Machine.execGclkLockTimeout d s
  | .gclkSettleDone d => Sys2Proof.Machine.execGclkSettleDone d s
  | .gclkSwitch d => Sys2Proof.Machine.execGclkSwitch d s
  | .gclkSegWrite d v => Sys2Proof.Machine.execGclkSegWrite d v s
  | .ldbRateWrite d v => Sys2Proof.Machine.execLdbRateWrite d v s
  | .qphyEnable d v => Sys2Proof.Machine.execQphyEnable d v s
  | .qphyDisable d v => Sys2Proof.Machine.execQphyDisable d v s
  | .qphyRateWrite d v => Sys2Proof.Machine.execQphyRateWrite d v s
  | .laneDetect d k => Sys2Proof.Machine.execLaneDetect d k s
  | .cdrLock d k => Sys2Proof.Machine.execCdrLock d k s
  | .blockLock d k ts => Sys2Proof.Machine.execBlockLock d k ts s
  | .tsReceive d phys inv ts => Sys2Proof.Machine.execTsReceive d phys inv ts s
  | .tapTunePointDone d k height width => Sys2Proof.Machine.execTapTunePointDone d k height width s
  | .laneTapEchoMismatch d k => Sys2Proof.Machine.execLaneTapEchoMismatch d k s
  | .verifyPass d k height width => Sys2Proof.Machine.execVerifyPass d k height width s
  | .laneTrainTimeout d k => Sys2Proof.Machine.execLaneTrainTimeout d k s
  | .laneFailedRetry d k => Sys2Proof.Machine.execLaneFailedRetry d k s
  | .laneLockLost d k => Sys2Proof.Machine.execLaneLockLost d k s
  | .lsReceive d ls => Sys2Proof.Machine.execLsReceive d ls s
  | .laneService d => Sys2Proof.Machine.execLaneService d s
  | .laneServiceEnd d k errors bits => Sys2Proof.Machine.execLaneServiceEnd d k errors bits s
  | .prbsSync d k => Sys2Proof.Machine.execPrbsSync d k s
  | .prbsSyncLoss d k errors bits => Sys2Proof.Machine.execPrbsSyncLoss d k errors bits s
  | .prbsNoSync d k => Sys2Proof.Machine.execPrbsNoSync d k s
  | .eyeScan d => Sys2Proof.Machine.execEyeScan d s
  | .eyeScanDone d counts hostAbort => Sys2Proof.Machine.execEyeScanDone d counts hostAbort s
  | .marginCrossScan d k height width => Sys2Proof.Machine.execMarginCrossScan d k height width s
  | .lanePartnerAsleep d => Sys2Proof.Machine.execLanePartnerAsleep d s
  | .ccSlotSend d => Sys2Proof.Machine.execCcSlotSend d s
  | .ccSlotReceive d b0 b1 b2 b3 => Sys2Proof.Machine.execCcSlotReceive d b0 b1 b2 b3 s
  | .stripeReceive d b0 b1 b2 b3 => Sys2Proof.Machine.execStripeReceive d b0 b1 b2 b3 s
  | .ccSlotMissing d => Sys2Proof.Machine.execCcSlotMissing d s
  | .parcelOpenTimeout d => Sys2Proof.Machine.execParcelOpenTimeout d s
  | .parcelTransmit d => Sys2Proof.Machine.execParcelTransmit d s
  | .videoParcelReceive d p => Sys2Proof.Machine.execVideoParcelReceive d p s
  | .parcelTypeUnknown d p => Sys2Proof.Machine.execParcelTypeUnknown d p s
  | .ctrlParcelReceive d p => Sys2Proof.Machine.execCtrlParcelReceive d p s
  | .ackReceive d p => Sys2Proof.Machine.execAckReceive d p s
  | .statReceive d p => Sys2Proof.Machine.execStatReceive d p s
  | .statSend d => Sys2Proof.Machine.execStatSend d s
  | .ctrlRetransmitTimeout d dst seq => Sys2Proof.Machine.execCtrlRetransmitTimeout d dst seq s
  | .nakBusyRetry d dst seq => Sys2Proof.Machine.execNakBusyRetry d dst seq s
  | .syncSend d sub => Sys2Proof.Machine.execSyncSend d sub s
  | .syncReceive d p sub => Sys2Proof.Machine.execSyncReceive d p sub s
  | .beaconReceive d p => Sys2Proof.Machine.execBeaconReceive d p s
  | .timeParcelBadKind d p => Sys2Proof.Machine.execTimeParcelBadKind d p s
  | .hopCountExpire d endB far => Sys2Proof.Machine.execHopCountExpire d endB far s
  | .masterClaim d => Sys2Proof.Machine.execMasterClaim d s
  | .masterTakeover d => Sys2Proof.Machine.execMasterTakeover d s
  | .accordSyncLost d => Sys2Proof.Machine.execAccordSyncLost d s
  | .accordNoMaster d => Sys2Proof.Machine.execAccordNoMaster d s
  | .frameDoneReceive d p => Sys2Proof.Machine.execFrameDoneReceive d p s
  | .deadlineRepeat d => Sys2Proof.Machine.execDeadlineRepeat d s
  | .deadlineReceive d p => Sys2Proof.Machine.execDeadlineReceive d p s
  | .wallNop d => Sys2Proof.Machine.execWallNop d s
  | .wallSetField t => Sys2Proof.Machine.execWallSetField t s
  | .wallStatusQuery d => Sys2Proof.Machine.execWallStatusQuery d s
  | .wallAddrAssign d => Sys2Proof.Machine.execWallAddrAssign d s
  | .wallRoleSet d => Sys2Proof.Machine.execWallRoleSet d s
  | .wallLatencySet d => Sys2Proof.Machine.execWallLatencySet d s
  | .accAcdKeyWrite d k v => Sys2Proof.Machine.execAccAcdKeyWrite d k v s
  | .stitchStatusSend d => Sys2Proof.Machine.execStitchStatusSend d s
  | .stitchTimeSend d => Sys2Proof.Machine.execStitchTimeSend d s
  | .stitchLockReceive d h m => Sys2Proof.Machine.execStitchLockReceive d h m s
  | .stitchTimeReceive d h m => Sys2Proof.Machine.execStitchTimeReceive d h m s
  | .stitchParcelReceive d h m => Sys2Proof.Machine.execStitchParcelReceive d h m s
  | .stitchStatusReceive d h m peerGood latency => Sys2Proof.Machine.execStitchStatusReceive d h m peerGood latency s
  | .stitchBlotterReceive d h m => Sys2Proof.Machine.execStitchBlotterReceive d h m s
  | .stitchTrainStart d => Sys2Proof.Machine.execStitchTrainStart d s
  | .stitchTrainFail d => Sys2Proof.Machine.execStitchTrainFail d s
  | .stitchDown d => Sys2Proof.Machine.execStitchDown d s
  | .stitchHoldExpired d => Sys2Proof.Machine.execStitchHoldExpired d s
  | .peerStateChange d => Sys2Proof.Machine.execPeerStateChange d s
  | .doorbellPoll d => Sys2Proof.Machine.execDoorbellPoll d s
  | .doorbellReadDone d r => Sys2Proof.Machine.execDoorbellReadDone d r s
  | .commandFetchDone d r => Sys2Proof.Machine.execCommandFetchDone d r s
  | .nop d => Sys2Proof.Machine.execNop d s
  | .fence d => Sys2Proof.Machine.execFence d s
  | .fenceDone d => Sys2Proof.Machine.execFenceDone d s
  | .waitEvent d => Sys2Proof.Machine.execWaitEvent d s
  | .waitEventTimeReached d => Sys2Proof.Machine.execWaitEventTimeReached d s
  | .waitEventTimeout d => Sys2Proof.Machine.execWaitEventTimeout d s
  | .setField d => Sys2Proof.Machine.execSetField d s
  | .setFieldRegister d => Sys2Proof.Machine.execSetFieldRegister d s
  | .rtcSet d => Sys2Proof.Machine.execRtcSet d s
  | .tableLoad d => Sys2Proof.Machine.execTableLoad d s
  | .tableRead d => Sys2Proof.Machine.execTableRead d s
  | .trimRun d => Sys2Proof.Machine.execTrimRun d s
  | .sillageEnter d => Sys2Proof.Machine.execSillageEnter d s
  | .sillageExit d => Sys2Proof.Machine.execSillageExit d s
  | .blotterArm d => Sys2Proof.Machine.execBlotterArm d s
  | .blotterDisarm d => Sys2Proof.Machine.execBlotterDisarm d s
  | .storeWrite d => Sys2Proof.Machine.execStoreWrite d s
  | .storeRead d => Sys2Proof.Machine.execStoreRead d s
  | .storeErase d => Sys2Proof.Machine.execStoreErase d s
  | .wearExport d => Sys2Proof.Machine.execWearExport d s
  | .wearImport d => Sys2Proof.Machine.execWearImport d s
  | .accordSend d => Sys2Proof.Machine.execAccordSend d s
  | .statusSnapshot d => Sys2Proof.Machine.execStatusSnapshot d s
  | .dmaArm d => Sys2Proof.Machine.execDmaArm d s
  | .dmaStop d => Sys2Proof.Machine.execDmaStop d s
  | .dmaAbort d => Sys2Proof.Machine.execDmaAbort d s
  | .dmaAbortDone d ch a => Sys2Proof.Machine.execDmaAbortDone d ch a s
  | .panelIdRead d => Sys2Proof.Machine.execPanelIdRead d s
  | .defectScan d => Sys2Proof.Machine.execDefectScan d s
  | .defectScanInsert d => Sys2Proof.Machine.execDefectScanInsert d s
  | .badOpcode d => Sys2Proof.Machine.execBadOpcode d s
  | .engineDone d eng io => Sys2Proof.Machine.execEngineDone d eng io s
  | .irqHoldoffExpiry d v => Sys2Proof.Machine.execIrqHoldoffExpiry d v s
  | .hostLinkDown d cause => Sys2Proof.Machine.execHostLinkDown d cause s
  | .pcieLinkTrain d cfg => Sys2Proof.Machine.execPcieLinkTrain d cfg s
  | .hifEnable d v => Sys2Proof.Machine.execHifEnable d v s
  | .hifDisable d v => Sys2Proof.Machine.execHifDisable d v s
  | .hifCfgWrite d off v => Sys2Proof.Machine.execHifCfgWrite d off v s
  | .d3hotEntry d => Sys2Proof.Machine.execD3hotEntry d s
  | .d0Return d => Sys2Proof.Machine.execD0Return d s
  | .barAccessSize d write off v => Sys2Proof.Machine.execBarAccessSize d write off v s
  | .hifStickyClear d v => Sys2Proof.Machine.execHifStickyClear d v s
  | .dmaTrigger d ch => Sys2Proof.Machine.execDmaTrigger d ch s
  | .dmaDescFetchDone d ch r => Sys2Proof.Machine.execDmaDescFetchDone d ch r s
  | .dmaHalfDone d ch io => Sys2Proof.Machine.execDmaHalfDone d ch io s
  | .dmaDescDone d ch io => Sys2Proof.Machine.execDmaDescDone d ch io s
  | .dmaSettleDone d ch => Sys2Proof.Machine.execDmaSettleDone d ch s
  | .freeTimerFire d t => Sys2Proof.Machine.execFreeTimerFire d t s
  | .dramInitDone d => Sys2Proof.Machine.execDramInitDone d s
  | .dramInitRetry d => Sys2Proof.Machine.execDramInitRetry d s
  | .dramScrub d upTo met => Sys2Proof.Machine.execDramScrub d upTo met s
  | .cvuSelWrite d v => Sys2Proof.Machine.execCvuSelWrite d v s
  | .aliveKeyExpire d key => Sys2Proof.Machine.execAliveKeyExpire d key s
  | .runSet d => Sys2Proof.Machine.execRunSet d s
  | .runClear d => Sys2Proof.Machine.execRunClear d s
  | .tmgRasterWrite d off v => Sys2Proof.Machine.execTmgRasterWrite d off v s
  | .tmgModeWrite d v => Sys2Proof.Machine.execTmgModeWrite d v s
  | .nominalStart d => Sys2Proof.Machine.execNominalStart d s
  | .frameStart d => Sys2Proof.Machine.execFrameStart d s
  | .lineStart d obs => Sys2Proof.Machine.execLineStart d obs s
  | .vblankStart d => Sys2Proof.Machine.execVblankStart d s
  | .frameEnd d => Sys2Proof.Machine.execFrameEnd d s
  | .teEdge d => Sys2Proof.Machine.execTeEdge d s
  | .teLost d => Sys2Proof.Machine.execTeLost d s
  | .layerLatchClear d top => Sys2Proof.Machine.execLayerLatchClear d top s
  | .identityReadDone d r => Sys2Proof.Machine.execIdentityReadDone d r s
  | .corMapBuildDone d => Sys2Proof.Machine.execCorMapBuildDone d s
  | .retargetStart d => Sys2Proof.Machine.execRetargetStart d s
  | .retargetPassDone d => Sys2Proof.Machine.execRetargetPassDone d s
  | .wearCheckpoint d => Sys2Proof.Machine.execWearCheckpoint d s
  | .wearCheckpointOverdue d => Sys2Proof.Machine.execWearCheckpointOverdue d s
  | .wearEnable d v => Sys2Proof.Machine.execWearEnable d v s
  | .wearStripWrite d v => Sys2Proof.Machine.execWearStripWrite d v s
  | .oddCfgWrite d v => Sys2Proof.Machine.execOddCfgWrite d v s
  | .ldbEnable d => Sys2Proof.Machine.execLdbEnable d s
  | .ldbDisable d => Sys2Proof.Machine.execLdbDisable d s
  | .ldbCfgWrite d off v => Sys2Proof.Machine.execLdbCfgWrite d off v s
  | .gsWriteSend d lane row first nicM1 => Sys2Proof.Machine.execGsWriteSend d lane row first nicM1 s
  | .latchSend d => Sys2Proof.Machine.execLatchSend d s
  | .echoReplyReceive d g words => Sys2Proof.Machine.execEchoReplyReceive d g words s
  | .ldbEchoTimeout d g => Sys2Proof.Machine.execLdbEchoTimeout d g s
  | .sillageIdleTimeout d => Sys2Proof.Machine.execSillageIdleTimeout d s
  | .sillageHandoff d => Sys2Proof.Machine.execSillageHandoff d s
  | .sillageDeepEntry d => Sys2Proof.Machine.execSillageDeepEntry d s
  | .takeoverStart d => Sys2Proof.Machine.execTakeoverStart d s
  | .takeoverRetry d => Sys2Proof.Machine.execTakeoverRetry d s
  | .takeoverUnaligned d => Sys2Proof.Machine.execTakeoverUnaligned d s
  | .drydownForwardEnd d => Sys2Proof.Machine.execDrydownForwardEnd d s
  | .drydownComplete => Sys2Proof.Machine.execDrydownComplete s
  | .blotterFrozenClear d => Sys2Proof.Machine.execBlotterFrozenClear d s
  | .trimStepDone d r => Sys2Proof.Machine.execTrimStepDone d r s
  | .irefMeasureDone d inReach => Sys2Proof.Machine.execIrefMeasureDone d inReach s
  | .trimAuto d k => Sys2Proof.Machine.execTrimAuto d k s
  | .trimWait d k => Sys2Proof.Machine.execTrimWait d k s
  | .trimStartTimeout d => Sys2Proof.Machine.execTrimStartTimeout d s
  | .storeReady d => Sys2Proof.Machine.execStoreReady d s
  | .storeProgramDone d bad => Sys2Proof.Machine.execStoreProgramDone d bad s
  | .storeEraseDone d ok => Sys2Proof.Machine.execStoreEraseDone d ok s
  | .storeEraseResume d => Sys2Proof.Machine.execStoreEraseResume d s
  | .storeRefreshStart d => Sys2Proof.Machine.execStoreRefreshStart d s
  | .bootComplete d => Sys2Proof.Machine.execBootComplete d s
  | .sysSealWrite d v => Sys2Proof.Machine.execSysSealWrite d v s
  | .loReadLatch d off => Sys2Proof.Machine.execLoReadLatch d off s
  | .rcCounterRead d off => Sys2Proof.Machine.execRcCounterRead d off s
  | .registerWrite d off v be => Sys2Proof.Machine.execRegisterWrite d off v be s
  | .segmentBoundary d => Sys2Proof.Machine.execSegmentBoundary d s
  | .thermalWarnEnd base => Sys2Proof.Machine.execThermalWarnEnd base s
  | .gclkStartRetry d => Sys2Proof.Machine.execGclkStartRetry d s

end Sys2Proof.Machine
end

