-- ==== Sys2Proof/Machine/Step.lean ====
section
/-! DEFINITION. One step: the command at the front of the queue, or, on an empty queue, one CCLK of time. -/

namespace Sys2Proof.Machine

/-- One CCLK at a die that runs: the CCLK count, and Accord time with its rate (R70, R137). 2.5 ns are 2.5 × 2^32 units of
2^-32 ns, of which the rate adds a part a / 2^32 (DESIGN CHOICE, assumption 2). -/
def Die.tick (x : Die) : Die :=
  { x with
    cclk := x.cclk + 1
    acd := { x.acd with time := x.acd.time + ((10737418240 : Int) + 5 * x.acd.rate / 2).toNat } }

/-- One CCLK of the module with nothing asked of it. DESIGN CHOICE (assumption 2): this is what the block does on an empty
queue, so that times and rate limits can pass. -/
def State.tick (s : State) : State :=
  let s := { s with
    mod := { s.mod with out := [] }
    w := { s.w with out := [] }
    e := { s.e with out := [] } }
  if s.mod.runs then { s with w := s.w.tick, e := s.e.tick } else s

/-- Take the command at the front of the queue and run it with the queue's rest (DESIGN CHOICE, assumption 2; DESIGN
CHOICE, assumption 41). -/
def step (s : State) : Host.Outcome State Fault Refusal :=
  match s.pending with
  | [] => .next s.tick
  | c :: rest => exec c { s with pending := rest }

/-- The command that a table word spells, put at the front of the queue. No row of this table has bits, so no word spells a
command and the state stays (assumption 3). -/
def State.withFetchWord (s : State) (nbits w : Nat) : State :=
  match decodeTableWord nbits w with
  | some c => { s with pending := c :: s.pending }
  | none => s

end Sys2Proof.Machine
end

