-- ==== Sys2Proof/Safety.lean ====
section
/-! DEFINITION. The terms that claims use: what of a die its reports do not touch, what a command does at one die or at the
module, what it raises, and how it completes. -/

namespace Sys2Proof.Machine

/-- Registers that follow from any command's reports: HIF_STATUS, HIF_STICKY, HIF_EVT_DROP, HIF_CMP_SEQ, EVT_LAST,
EVT_LAST_DETAIL and EVT_RAISED. -/
def isReport (off : Nat) : Bool :=
  off == 0x2004 || off == 0x203C || off == 0x2040 || off == 0x2048 || off == 0x7820 || off == 0x7824 ||
    (0x7840 ≤ off && off < 0x7880)

/-- The host interface without its transport: rings, backlog, vectors, status block. -/
def Hif.core (h : Hif) : Hif :=
  { h with
    cmpTail := 0, evtTail := 0, fetching := 0, fetched := [], held := [], stalled := false, logLost := 0, lost := 0
    backlog := [], raised := [], vecs := [], holdoff := [], pba := 0, sbAlive := 0, sbDue := false }

/-- A die without its reports (events, completions, status block, vectors and outputs), and what its other registers hold. -/
def Die.core (x : Die) : Die × (Nat → Word) :=
  ({ x with regs := [], limits := [], hif := x.hif.core, out := [] }, fun k => if isReport k then 0 else x.reg k)

/-- The die named, as a command finds it: the last command's outputs are gone. -/
def State.at (s : State) (d : DieId) : Die := { s.die d with out := [] }

/-- What a meaning may read beside its die. -/
def State.ctx (s : State) (d : DieId) : Ctx := ⟨s.mod, (s.die d.other).power, (s.die d.other).sti.barred⟩

/-- The dies run, and no raise is left over from an earlier command at this one (`Obligations.RaisesAreTaken` says that no step
leaves one). -/
abbrev State.Up (s : State) (d : DieId) : Prop := s.mod.runs = true ∧ (s.die d).hif.raised = []

/-- A command at die `d` answers a next state in which that die is `y` but for its reports; the module, the other die and the
queue are as before. -/
def Does (s : State) (c : Instr) (d : DieId) (y : Die) : Prop :=
  ∃ t, exec c s = .next t ∧ t.mod = s.mod ∧ t.pending = s.pending ∧ t.die d.other = s.die d.other ∧ (t.die d).core = y.core

/-- A command at die `d` answers a next state, and the event it raises is the one that EVT_LAST shows. -/
def Raises (s : State) (c : Instr) (d : DieId) (code detail : Nat) : Prop :=
  ∃ t, exec c s = .next t ∧ (t.die d).get F.evtCode = code ∧ (t.die d).get F.evtDetail = detail % 2 ^ 32

/-- A command at die `d` answers a next state in which it has put `o` on the contacts. -/
def Emits (s : State) (c : Instr) (d : DieId) (o : Out) : Prop :=
  ∃ t, exec c s = .next t ∧ o ∈ (t.die d).out

/-- The completion entry for `c` at the slot that the ring is at (R189). -/
def Die.completionOut (x : Die) (c : Cmd) (status detail : Nat) : Out :=
  let n := ringSize (x.get F.cmpLog2)
  let t := x.hif.cmpTail.toNat
  .hostWrite (x.base64 0x2020 + 16 * (t % n)) (completionBytes ⟨c, status, detail⟩ (x.get F.cmpSeq) (phaseBit t n)) false false

/-- The head of the fetched commands, if it executes now: it has passed its check, the ring is free, the power state lets it, its
reserved bytes are 0 and its arguments are in range (R184–R187, R193). -/
def Die.Head (x : Die) (b : List Byte) (inDrydown needs stopped : Bool) (used : List (Nat × Nat)) (ok : Bool) : Prop :=
  (∃ f rest, x.hif.fetched = f :: rest ∧ f.bytes = b ∧ f.bad = false) ∧ x.ringFree = true ∧
    x.stateRefuses inDrydown needs stopped = false ∧ entryOk b used = true ∧ ok = true

/-- The command that the head of the ring is. -/
def Die.headCmd (x : Die) : Cmd :=
  match x.hif.fetched with
  | f :: _ => cmdOf f
  | [] => ⟨0, false, [], 0⟩

/-- A module command answers a next state whose module record is `m`, and whose dies are `w` and `e` but for their reports. -/
def DoesMod (s : State) (c : Instr) (m : Module) (w e : Die) : Prop :=
  ∃ t, exec c s = .next t ∧ t.mod = m ∧ t.pending = s.pending ∧ t.w.core = w.core ∧ t.e.core = e.core

/-- Whether a command belongs to the module as a whole: the input stage, the keeper and its SMBus port. Every other command is one
die's. -/
def ofModule : Instr → Bool
  | .keeperStart _ _ _ _ | .keeperStop | .presentLOpen | .insertionSettled | .inputSwitchClose | .bulkRampDone
  | .inrushFault | .powerGood _ _ | .converterStartTimeout | .railFault | .undervoltage | .overvoltage | .bulkDepleted
  | .thermalWarn _ | .thermalTrip _ _ _ | .ejectLFiltered | .ejectLRelease | .modEnLow | .modEnRise | .rtcTick _
  | .rtcSave | .operation _ | .clearFaults _ | .capability _ | .statusByte _ | .statusWord _ | .statusInput _
  | .statusTemperature _ | .statusCml _ | .statusMfrSpecific _ | .readVin _ _ | .readIin _ _ | .readTemperature1 _
  | .readTemperature2 _ | .readTemperature3 _ | .readPin _ _ | .pmbusRevision _ | .mfrId _ | .mfrModel _ | .mfrSerial _
  | .mfrWake _ | .mfrGoDormant _ | .mfrState _ | .mfrRtcRead _ | .mfrRtcWrite _ _ | .mfrLastOff _ | .mfrDormantHoldRead _
  | .mfrDormantHoldSet _ _ | .mfrDormantHoldClear _ _ | .mfrTripCounts _ | .smbusInvalidCommand _ | .alertResponse _
  | .smbusClockLowTimeout | .drydownComplete | .thermalWarnEnd _ => true
  | _ => false

end Sys2Proof.Machine
end

