-- ==== Sys2Proof/Certificates/Slice0/Obligations.lean ====
section
/-! DEFINITION. What this model claims of itself, for the provers. -/

section

open Sys2Proof Sys2Proof.Machine

namespace Sys2Proof

/-- A read of the keeper answers with these data bytes, and with a PEC byte where the master clocks one more. -/
def ReadsAs (s : State) (c : Bool → Instr) (code : Nat) (bytes : List Byte) : Prop :=
  ∀ pec, DoesMod s (c pec)
    { s.mod with out := [.smbus (if pec then bytes ++ [pecOf (le 1 (2 * (0x58 + s.mod.maddr.toNat)) ++ le 1 code ++
      le 1 (2 * (0x58 + s.mod.maddr.toNat) + 1) ++ bytes)] else bytes)] } s.w s.e

end Sys2Proof

/-- O1 (R63): what each SMBus read returns while the keeper answers its address; nothing else changes. The words in LINEAR11 are
written with the exponents −3, −9, −2 and −4 as 0x1D, 0x17, 0x1E and 0x1C in bits [15:11]. Readings of the model that it
rests on, not rules of the spec: log entries 6, 19, 35, 36. -/
def Obligations.KeeperReadsReturn : Prop :=
  ∀ s : State, s.mod.answers = true →
    ReadsAs s .operation 0x01 [if s.mod.phase = .on then 0x80 else 0x00] ∧
    ReadsAs s .capability 0x19 [0x90] ∧
    ReadsAs s .statusByte 0x78 (le 1 s.mod.statusByte) ∧
    ReadsAs s .statusWord 0x79
      (le 2 (s.mod.statusByte + (if s.mod.stInput = 0 then 0 else 0x2000) + (if s.mod.stMfr = 0 then 0 else 0x1000))) ∧
    ReadsAs s .statusInput 0x7C [s.mod.stInput] ∧
    ReadsAs s .statusTemperature 0x7D [s.mod.stTemp] ∧
    ReadsAs s .statusCml 0x7E [s.mod.stCml] ∧
    ReadsAs s .statusMfrSpecific 0x80 [s.mod.stMfr] ∧
    (∀ m : BitVec 11, ReadsAs s (.readVin m) 0x88 (le 2 (0x1D * 2048 + m.toNat))) ∧
    (∀ m : BitVec 11, ReadsAs s (.readIin m) 0x89 (le 2 (0x17 * 2048 + m.toNat))) ∧
    (∀ m : BitVec 11, ReadsAs s (.readPin m) 0x97 (le 2 (0x1C * 2048 + m.toNat))) ∧
    ReadsAs s .readTemperature1 0x8D (le 2 (0x1E * 2048 + s.mod.meas.base.toNat % 2048)) ∧
    ReadsAs s .readTemperature2 0x8E (if s.mod.diesUp then le 2 (0x1E * 2048 + s.mod.meas.dieW.toNat % 2048) else [0, 0]) ∧
    ReadsAs s .readTemperature3 0x8F (if s.mod.diesUp then le 2 (0x1E * 2048 + s.mod.meas.dieE.toNat % 2048) else [0, 0]) ∧
    ReadsAs s .pmbusRevision 0x98 [0x33] ∧
    ReadsAs s .mfrId 0x99 [7, 0x4F, 0x56, 0x52, 0x55, 0x4F, 0x52, 0x4E] ∧
    ReadsAs s .mfrModel 0x9A [9, 0x4C, 0x51, 0x2D, 0x34, 0x38, 0x31, 0x36, 0x2D, if Config.variantK then 0x4B else 0x41] ∧
    ReadsAs s .mfrSerial 0x9E (14 :: serialChars) ∧
    ReadsAs s .mfrState 0xD2 (le 1 (s.stateCode s.w) ++ le 1 (s.stateCode s.e)) ∧
    ReadsAs s .mfrRtcRead 0xD3 (6 :: le 6 s.mod.rtc.toNat) ∧
    ReadsAs s .mfrLastOff 0xD4 (le 1 s.mod.lastOff.toNat) ∧
    ReadsAs s .mfrDormantHoldRead 0xD5 [if s.mod.hold then 1 else 0] ∧
    ReadsAs s .mfrTripCounts 0xD6 (8 :: (le 4 s.mod.uv.toNat ++ le 4 s.mod.ov.toNat))

namespace Sys2Proof

/-- The PEC byte of a write is absent, or is the one over the write's bytes (R62). -/
def PecFits (s : State) (code : Nat) (bytes : List Byte) (pec : Option Byte) : Prop :=
  pec = none ∨ pec = some (pecOf (le 1 (2 * (0x58 + s.mod.maddr.toNat)) ++ le 1 code ++ bytes))

/-- (R56–R58, R63–R65): what each SMBus write does while the keeper answers its address and the PEC byte, if any, fits.
MFR_GO_DORMANT and a 1 written to MFR_DORMANT_HOLD are here in DORMANT with the switch open; `Obligations.DrydownStarts` has
them in the states that the dies run in. -/
def KeeperWritesTakeEffect : Prop :=
  ∀ (s : State) (pec : Option Byte), s.mod.answers = true →
    (PecFits s 0x03 [] pec →
      DoesMod s (.clearFaults pec) { s.mod.clearFault with
        stInput := 0, stTemp := 0, stCml := 0, stMfr := 0, alert := false, out := [.smbusAck] } s.w s.e) ∧
    (PecFits s 0xD0 [] pec → s.mod.modEn = true →
      DoesMod s (.mfrWake pec) { s.mod with hold := false, out := [.smbusAck] } s.w s.e) ∧
    (PecFits s 0xD0 [] pec → s.mod.modEn = false →
      DoesMod s (.mfrWake pec) { s.mod with stMfr := s.mod.stMfr ||| 1, out := [.smbusAck] } s.w s.e) ∧
    (PecFits s 0xD1 [] pec → s.mod.phase = .dormant → s.mod.sw = false →
      DoesMod s (.mfrGoDormant pec) { s.mod with hold := true, out := [.smbusAck] } s.w s.e) ∧
    (∀ rtc : BitVec 48, PecFits s 0xD3 (6 :: le 6 rtc.toNat) pec →
      DoesMod s (.mfrRtcWrite rtc pec) { s.mod with rtc := rtc, out := [.smbusAck] } s.w s.e) ∧
    (∀ hi : BitVec 7, PecFits s 0xD5 (le 1 (2 * hi.toNat + 1)) pec → s.mod.phase = .dormant → s.mod.sw = false →
      DoesMod s (.mfrDormantHoldSet hi pec) { s.mod with hold := true, out := [.smbusAck] } s.w s.e) ∧
    (∀ hi : BitVec 7, PecFits s 0xD5 (le 1 (2 * hi.toNat)) pec → s.mod.modEn = true →
      DoesMod s (.mfrDormantHoldClear hi pec) { s.mod with hold := false, out := [.smbusAck] } s.w s.e)

/-- (R62–R64): a code outside R63 is not acknowledged and sets STATUS_CML bit 7; a wrong PEC byte discards a write and sets
bit 5; the Alert Response Address answers with the keeper's address while SMB_ALERT_L is low, and releases it; a clock held low
changes nothing, since an abandoned transaction has done nothing (the model's reading of R62). -/
def KeeperRefusesAndAlerts : Prop :=
  ∀ s : State, s.mod.answers = true →
    (∀ code : Byte, smbusCodes.contains code.toNat = false →
      DoesMod s (.smbusInvalidCommand code) { ({ s.mod with stCml := s.mod.stCml ||| 0x80 }.alertFrom s.mod) with
        out := [.smbusNack] } s.w s.e) ∧
    (∀ p : Byte, ¬ PecFits s 0xD0 [] (some p) →
      DoesMod s (.mfrWake (some p)) { ({ s.mod with stCml := s.mod.stCml ||| 0x20 }.alertFrom s.mod) with
        out := [.smbusNack] } s.w s.e) ∧
    (s.mod.alert = true → ∀ pec : Bool,
      let a := le 1 (2 * (0x58 + s.mod.maddr.toNat))
      DoesMod s (.alertResponse pec)
        { s.mod with alert := false, out := [.smbus (if pec then a ++ [pecOf (0x19 :: a)] else a)] } s.w s.e) ∧
    DoesMod s .smbusClockLowTimeout { s.mod with out := [] } s.w s.e

end Sys2Proof

/-- O2: both parts, `KeeperWritesTakeEffect` and `KeeperRefusesAndAlerts`, for every state. Readings of the model that it
rests on, not rules of the spec: log entries 6, 15, 36. -/
def Obligations.KeeperWritesAreTakenOrRefused : Prop := KeeperWritesTakeEffect ∧ KeeperRefusesAndAlerts

namespace Sys2Proof

/-- (R48–R50, R55, R65): the module comes up from OFF: the keeper takes its straps and its record, INSERTING becomes DORMANT,
the input switch closes on a wake request, and the converters start. -/
def ModuleComesUp : Prop :=
  ∀ s : State,
    (∀ (maddr : BitVec 3) (nvOk modEn ejectClosed : Bool), s.mod.phase = .off →
      ∃ t, exec (.keeperStart maddr nvOk modEn ejectClosed) s = .next t ∧ t.mod.phase = .inserting ∧ t.mod.present = true ∧
        t.mod.maddr = maddr ∧ t.mod.modEn = modEn ∧ t.mod.ejectClosed = ejectClosed ∧ t.mod.hold = false ∧
        t.mod.rtc = (if nvOk then s.mod.nv.rtc else 0) ∧ t.mod.uv = (if nvOk then s.mod.nv.uv else 0) ∧
        t.mod.ov = (if nvOk then s.mod.nv.ov else 0) ∧ t.mod.lastOff = (if nvOk then s.mod.nv.lastOff else 0) ∧
        t.mod.nv = s.mod.nv ∧ t.mod.sw = s.mod.sw ∧ t.mod.diesUp = s.mod.diesUp ∧ t.mod.meas = s.mod.meas ∧
        t.w.keep = ⟨1, 0⟩ ∧ t.e.keep = ⟨1, 0⟩ ∧ t.pending = s.pending) ∧
    (s.mod.phase = .inserting →
      DoesMod s .insertionSettled { s.mod with phase := .dormant, out := [] } s.w s.e) ∧
    (s.mod.phase = .dormant → s.mod.sw = false → s.mod.present = true → s.mod.modEn = true → s.mod.ejectClosed = false →
      s.mod.hold = false →
      DoesMod s .inputSwitchClose { s.mod with sw := true, conv := false, good := false, out := [] } s.w s.e) ∧
    (s.mod.sw = true → s.mod.conv = false → DoesMod s .bulkRampDone { s.mod with conv := true, out := [] } s.w s.e)

/-- (R54, R366, R367, R388): at power good both dies run, are reset and enter BOOTING; flash contents and the keeper's copies
stay, but for the die's own two PWR_STATUS bits. -/
def PowerGoodBoots : Prop :=
  ∀ (s : State) (okW okE : Bool), s.mod.sw = true → s.mod.conv = true → s.mod.good = false →
    s.w.cst.op = .idle → s.e.cst.op = .idle →
    ∃ t, exec (.powerGood okW okE) s = .next t ∧ t.mod = { s.mod with good := true, diesUp := true, phase := .on, out := [] } ∧
      t.pending = s.pending ∧
      ∀ d, (t.die d).power = .booting ∧ (t.die d).id = (s.die d).id ∧ (t.die d).cst.flash = (s.die d).cst.flash ∧
        (t.die d).keep.cfg = (s.die d).keep.cfg ∧ (t.die d).keep.status = (s.die d).keep.status &&& 0x3B ∧
        (t.die d).mem = (Die.reset d).mem ∧ (t.die d).channels = (Die.reset d).channels ∧ (t.die d).acd = Acd.reset ∧
        (t.die d).reg 0x4000 = resetVal (s.die d).id 0x4000

end Sys2Proof

/-- O3: both parts, `ModuleComesUp` and `PowerGoodBoots`, for every state. Readings of the model that it rests on, not
rules of the spec: log entries 5, 7, 9, 50. -/
def Obligations.ModulePowersUp : Prop := ModuleComesUp ∧ PowerGoodBoots

namespace Sys2Proof

/-- The dies hand off at once (R52, R324), as the module's events find them. -/
def HandsOff (s : State) (d : DieId) : Die := if s.mod.runs then (s.at d).immediateHandoff else s.at d

/-- A bit of both copies of PWR_STATUS is set (R68). -/
def Marked (x : Die) (bit : Nat) : Die := { x with keep := { x.keep with status := x.keep.status ||| BitVec.ofNat 7 (2 ^ bit) } }

/-- The input switch is open, and what belongs to it is over. -/
def Opened (m : Module) : Module := { m with sw := false, conv := false, good := false, drydown := none, cool := 0 }

end Sys2Proof

/-- O4 (R49, R52, R55, R56, R60, R68): an undervoltage or an overvoltage opens the closed switch after the hand-off: DORMANT, the
trip counted, STATUS_INPUT and PWR_STATUS set, the last-off cause recorded unless a Drydown has recorded its own, and the hold
set after an overvoltage unless both copies of OV_AUTORETRY are 1. Readings of the model that it rests on, not rules of
the spec: log entries 5, 9, 15, 50. -/
def Obligations.SwitchOpensOnInput : Prop :=
  ∀ s : State, s.mod.sw = true →
    DoesMod s .undervoltage
      ({ Opened s.mod with
        phase := .dormant, uv := if s.mod.uv = 0xFFFFFFFF then 0xFFFFFFFF else s.mod.uv + 1
        stInput := s.mod.stInput ||| 0x18, lastOff := s.mod.drydown.getD 3, out := [] }.alertFrom s.mod)
      (Marked (HandsOff s .W) 0) (Marked (HandsOff s .E) 0) ∧
    DoesMod s .overvoltage
      ({ Opened s.mod with
        phase := .dormant, ov := if s.mod.ov = 0xFFFFFFFF then 0xFFFFFFFF else s.mod.ov + 1
        stInput := s.mod.stInput ||| 0x80, lastOff := s.mod.drydown.getD 4
        hold := s.mod.hold || !(s.w.keep.cfg.getLsbD 0 && s.e.keep.cfg.getLsbD 0), out := [] }.alertFrom s.mod)
      (Marked (HandsOff s .W) 1) (Marked (HandsOff s .E) 1)

namespace Sys2Proof

/-- (R45, R50, R55, R59): the three faults take the module to FAULT-HOLD with the switch open, each recorded as itself. -/
def FaultsHoldTheModule : Prop :=
  ∀ s : State,
    let fault (f : FaultCause) (c : BitVec 4) : Module :=
      { Opened s.mod with phase := .faultHold, fault := some f, lastOff := c, modEnFell := false, out := [] }
    (s.mod.sw = true → s.mod.conv = false →
      DoesMod s .inrushFault ({ fault .inrush 7 with stMfr := s.mod.stMfr ||| 2 }.alertFrom s.mod)
        (Marked s.w 4) (Marked s.e 4)) ∧
    (s.mod.sw = true → s.mod.conv = true → s.mod.good = false →
      DoesMod s .converterStartTimeout ({ fault .rail 8 with stMfr := s.mod.stMfr ||| 4 }.alertFrom s.mod)
        (Marked (HandsOff s .W) 5) (Marked (HandsOff s .E) 5)) ∧
    (s.mod.sw = true → s.mod.conv = true →
      DoesMod s .railFault ({ fault .rail 8 with stMfr := s.mod.stMfr ||| 4 }.alertFrom s.mod)
        (Marked (HandsOff s .W) 5) (Marked (HandsOff s .E) 5)) ∧
    (∀ (d : DieId) (die base : BitVec 16), s.mod.phase ≠ .off → s.mod.diesUp = true → 500 < toSigned 16 die.toNat →
      DoesMod s (.thermalTrip d die base)
        ({ fault .thermal 5 with
          stTemp := s.mod.stTemp ||| 0x80, cool := if s.mod.sw then 0 else s.mod.cool
          meas := match d with
            | .W => { s.mod.meas with dieW := die, base := base }
            | .E => { s.mod.meas with dieE := die, base := base } }.alertFrom s.mod)
        (Marked (HandsOff s .W) 3) (Marked (HandsOff s .E) 3) ∧
      ∀ e, s.mod.phase = .on → (s.die e).hif.raised = [] → (s.die e).on F.scanOwn = false →
        Raises s (.thermalTrip d die base) e 0x07 (die.toNat + 65536 * base.toNat))

/-- (R45, R64, R68): above 95 °C at the baseplate the warning stands, is reported and sets OT_WARNING; at 95 °C or below it
ends. FAULT_L follows FAULT-HOLD, and the warning while FAULT_L_ON_WARN is 1 in either copy. -/
def ThermalWarning : Prop :=
  ∀ (s : State) (base : BitVec 16),
    (s.mod.phase ≠ .off → s.mod.warn = false → 380 < toSigned 16 base.toNat →
      DoesMod s (.thermalWarn base)
        ({ s.mod with
          warn := true, stTemp := s.mod.stTemp ||| 0x40, meas := { s.mod.meas with base := base }, out := [] }.alertFrom s.mod)
        (Marked s.w 2) (Marked s.e 2) ∧
      ∀ d, s.Up d → Raises s (.thermalWarn base) d 0x06 base.toNat) ∧
    (s.mod.warn = true → toSigned 16 base.toNat ≤ 380 →
      DoesMod s (.thermalWarnEnd base)
        { s.mod with warn := false, meas := { s.mod.meas with base := base }, out := [] } s.w s.e) ∧
    (s.faultL = true ↔ s.mod.phase = .faultHold ∨
      (s.mod.warn = true ∧ (s.w.keep.cfg.getLsbD 1 = true ∨ s.e.keep.cfg.getLsbD 1 = true)))

end Sys2Proof

/-- O5: both parts, `FaultsHoldTheModule` and `ThermalWarning`, for every state. Readings of the model that it rests on,
not rules of the spec: log entries 9, 15. -/
def Obligations.FaultsHoldAndWarningsStand : Prop := FaultsHoldTheModule ∧ ThermalWarning

/-- O6 (R55, R60, R334): EJECT_L, MOD_EN low, MFR_GO_DORMANT and MFR_DORMANT_HOLD start a Drydown with its cause where a die is
past BOOTING, and send a module whose dies are both in BOOTING to DORMANT at once. Readings of the model that it rests
on, not rules of the spec: log entries 15, 50. -/
def Obligations.DrydownStarts : Prop :=
  ∀ s : State, s.mod.phase = .on → s.mod.drydown = none → s.mod.diesUp = true →
    (¬ (s.w.power = .booting ∧ s.e.power = .booting) →
      DoesMod s .ejectLFiltered { s.mod with ejectClosed := true, drydown := some 2, out := [] }
        ((Marked (s.at .W) 6).enterDrydown 1) ((Marked (s.at .E) 6).enterDrydown 1) ∧
      DoesMod s .modEnLow { s.mod with modEn := false, modEnFell := true, drydown := some 6, out := [] }
        ((s.at .W).enterDrydown 2) ((s.at .E).enterDrydown 2) ∧
      DoesMod s (.mfrGoDormant none) { s.mod with hold := true, drydown := some 6, out := [.smbusAck] }
        ((s.at .W).enterDrydown 3) ((s.at .E).enterDrydown 3) ∧
      ∀ hi, DoesMod s (.mfrDormantHoldSet hi none) { s.mod with hold := true, drydown := some 6, out := [.smbusAck] }
        ((s.at .W).enterDrydown 3) ((s.at .E).enterDrydown 3)) ∧
    (s.w.power = .booting → s.e.power = .booting →
      DoesMod s .ejectLFiltered { Opened s.mod with ejectClosed := true, phase := .dormant, lastOff := 2, out := [] }
        (Marked s.w 6) (Marked s.e 6) ∧
      DoesMod s .modEnLow { Opened s.mod with
        modEn := false, modEnFell := true, phase := .dormant, lastOff := 6, out := [] } s.w s.e)

namespace Sys2Proof

/-- (R56, R58, R60, R65): the end of a Drydown; EJECT_L open again; MOD_EN rising, which clears the hold and, after a falling
edge, FAULT-HOLD; and the real-time counter, second by second and in its record. -/
def KeeperGoesOn : Prop :=
  ∀ s : State, s.mod.phase ≠ .off →
    (∀ c, s.mod.drydown = some c → s.w.drydownDone = true → s.e.drydownDone = true →
      DoesMod s .drydownComplete { Opened s.mod with phase := .dormant, lastOff := c, out := [] } s.w s.e) ∧
    DoesMod s .ejectLRelease { s.mod with ejectClosed := false, out := [] } s.w s.e ∧
    (s.mod.modEn = false → s.mod.modEnFell = false →
      DoesMod s .modEnRise { s.mod with modEn := true, hold := false, out := [] } s.w s.e) ∧
    (s.mod.modEn = false → s.mod.modEnFell = true → s.mod.phase = .faultHold → s.mod.fault ≠ some .thermal →
      DoesMod s .modEnRise { s.mod with
        modEn := true, modEnFell := false, hold := false, phase := .dormant, fault := none, out := [] } s.w s.e) ∧
    (∀ m : Meas, s.mod.diesUp = false →
      DoesMod s (.rtcTick m) { s.mod with rtc := s.mod.rtc + 1, meas := m, cool := s.mod.cool + 1, out := [] } s.w s.e) ∧
    DoesMod s .rtcSave
      { s.mod with nv := ⟨s.mod.rtc, s.mod.uv, s.mod.ov, s.mod.lastOff⟩, out := [.nvWrite] } s.w s.e

/-- (R27, R48, R52, R55, R61): the module goes to OFF, with its record written, when the keeper stops or PRESENT_L opens; an
opening with the switch closed is a surprise removal, and the dies hand off first. The dies stop when the bulk is depleted, and
keep what the keeper and the flash hold for them. -/
def ModuleGoesOff : Prop :=
  ∀ s : State,
    (s.mod.phase ≠ .off → s.mod.sw = false →
      DoesMod s .keeperStop { s.mod with
        nv := ⟨s.mod.rtc, s.mod.uv, s.mod.ov, s.mod.lastOff⟩, phase := .off, fault := none, alert := false, warn := false
        out := [.nvWrite] } s.w s.e) ∧
    (s.mod.phase ≠ .off → s.mod.sw = true →
      DoesMod s .presentLOpen { Opened s.mod with
        present := false, lastOff := s.mod.drydown.getD 1, phase := .off, fault := none, alert := false, warn := false
        nv := ⟨s.mod.rtc, s.mod.uv, s.mod.ov, s.mod.drydown.getD 1⟩, out := [.nvWrite] }
        (HandsOff s .W) (HandsOff s .E)) ∧
    (s.mod.sw = false → s.mod.diesUp = true → s.w.cst.op = .idle → s.e.cst.op = .idle →
      ∃ t, exec .bulkDepleted s = .next t ∧ t.mod = { s.mod with diesUp := false, out := [] } ∧ t.pending = s.pending ∧
        ∀ d, (t.die d).keep = (s.die d).keep ∧ (t.die d).cst.flash = (s.die d).cst.flash ∧ (t.die d).id = (s.die d).id ∧
          (t.die d).power = .booting ∧ (t.die d).mem = (Die.reset d).mem)

end Sys2Proof

/-- O7: both parts, `KeeperGoesOn` and `ModuleGoesOff`, for every state. Readings of the model that it rests on, not
rules of the spec: log entries 5, 7, 15, 50. -/
def Obligations.KeeperGoesOnAndOff : Prop := KeeperGoesOn ∧ ModuleGoesOff

namespace Sys2Proof

/-- The power states of the module and the rules that tie its parts together (R48–R50, R55, R58): the switch is closed only with
PRESENT_L closed and the keeper in DORMANT (the ramp) or with the dies in use; converters and power good follow the switch; the
dies' states stand exactly from power good; a fault is held exactly in FAULT-HOLD; a Drydown runs only with the dies in use. -/
def PowerInv (m : Module) : Prop :=
  (m.sw = true → m.present = true ∧ (m.phase = .dormant ∨ m.phase = .on)) ∧ (m.conv = true → m.sw = true) ∧
    (m.good = true → m.conv = true) ∧ (m.good = true ↔ m.phase = .on) ∧ (m.phase = .on → m.diesUp = true) ∧
    (m.fault.isSome = true ↔ m.phase = .faultHold) ∧ (m.drydown.isSome = true → m.phase = .on) ∧
    (m.phase ≠ .off → m.present = true) ∧ ((m.warn = true ∨ m.alert = true) → m.phase ≠ .off)

/-- The power states of the module that one transition of R55 joins. -/
def phaseMoves : List (Phase × Phase) :=
  [(.off, .inserting), (.inserting, .dormant), (.dormant, .on), (.on, .dormant), (.inserting, .faultHold), (.dormant, .faultHold),
   (.on, .faultHold), (.faultHold, .dormant), (.inserting, .off), (.dormant, .off), (.on, .off), (.faultHold, .off)]

end Sys2Proof

/-- O8 (R49, R55, R58): every step of every state keeps the rules of `PowerInv`, and takes the module as a whole only along a
transition that R55 lists. Readings of the model that it rests on, not rules of the spec: log entries 2, 9. -/
def Obligations.PowerRulesKept : Prop :=
  ∀ s t : State, PowerInv s.mod → step s = .next t →
    PowerInv t.mod ∧ (s.mod.phase = t.mod.phase ∨ (s.mod.phase, t.mod.phase) ∈ phaseMoves)

namespace Sys2Proof

/-- (R70, R74–R78): REFCLK and holdover: lock, the boot time-out, the loss, the expiry, the return and the restoration, each
with its flags of CLK_STATUS and its event. A die in BOOTING takes no Sillage cause. -/
def ReferenceClock : Prop :=
  ∀ (s : State) (d : DieId), s.Up d →
    let x := s.at d
    (x.clk.phase ≠ .held → Does s (.cclkLock d) d ((x.flag F.refclkOk true).flag F.cclkLock true)) ∧
    (x.clk.phase = .held →
      Does s (.cclkLock d) d { (x.flag F.refclkOk true).flag F.cclkLock true with
        clk := { x.clk with phase := .locking false } }) ∧
    (x.power = .booting → x.on F.refclkOk = false → x.clk.bootLost = false →
      Does s (.bootRefclkTimeout d) d { x with clk := { x.clk with bootLost := true } } ∧
      Raises s (.bootRefclkTimeout d) d 0x10 0) ∧
    (x.power = .booting → x.on F.refclkOk = true →
      let y := ((x.flag F.refclkOk false).flag F.cclkLock false).flag F.holdover true
      let y := if x.stitchUp then y else y.put F.stiState 0
      Does s (.refclkLost d) d { y with
        clk := { x.clk with follow := x.id == .E && x.stitchUp, slewing := false }
        sti := { x.sti with barred := !x.stitchUp, good := if x.stitchUp then x.sti.good else 0 } } ∧
      Raises s (.refclkLost d) d 0x10 0) ∧
    (x.power = .active → x.on F.scanOwn = true → x.takeover = .none → x.trim.todo = [] → x.on F.refclkOk = true →
      ∃ t, exec (.refclkLost d) s = .next t ∧ (t.die d).power = .active ∧ (t.die d).on F.silRefclk = true ∧
        (t.die d).on F.holdover = true ∧ (t.die d).on F.refclkOk = false) ∧
    (x.on F.holdover = true → x.on F.holdoverExpired = false → x.on F.refclkOk = false →
      Does s (.refclkHoldoverExpired d) d { x.flag F.holdoverExpired true with clk := { x.clk with txOff := true } } ∧
      Raises s (.refclkHoldoverExpired d) d 0x12 0) ∧
    (x.on F.holdover = true → x.on F.refclkOk = false →
      Does s (.refclkReturn d) d { x.flag F.refclkOk true with clk := { x.clk with slewing := true } }) ∧
    (x.clk.slewing = true → x.clk.txOff = false →
      (x.clk.follow = true → ∃ p, x.sti.peer = some p ∧ p.refRestored = true) →
      Does s (.refclkRestored d) d
        { ((x.flag F.cclkLock true).flag F.holdover false).flag F.holdoverExpired false with
          clk := { x.clk with
            slewing := false, follow := false, txOff := false
            phase := if x.clk.phase = .held then .locking false else x.clk.phase }
          sti := { x.sti with barred := false } } ∧
      Raises s (.refclkRestored d) d 0x11 0)

/-- (R82, R83, R85, R86): a GCLK request and its course: refused out of range, done at once at the running frequency,
otherwise the idle synthesiser starts, reports lock, settles and switches at a segment boundary or starts GCLK from rest; the
first failed lock restarts it and the second gives up. -/
def GclkRequestsRun : Prop :=
  ∀ (s : State) (d : DieId), s.Up d →
    let x := s.at d
    (∀ v : Word, let w := v.toNat % 2 ^ 24
      ((w < 0x033334 ∨ 0x666666 < w) →
        Does s (.gclkRequest d v) d x ∧ Raises s (.gclkRequest d v) d 0x16 w) ∧
      (0x033334 ≤ w → w ≤ 0x666666 →
        let y := x.put F.gclkNext w
        let y := if x.clk.phase = .none then y else y.gclkIdle
        (x.on F.gclkRun = true → x.get F.gclkCur = w → Does s (.gclkRequest d v) d y) ∧
        (x.on F.gclkRun = false ∨ x.get F.gclkCur ≠ w →
          let held := x.power = .booting ∧ x.on F.cclkLock = false
          Does s (.gclkRequest d v) d (({ y with clk := { y.clk with
            phase := if held then .held else .locking false, target := w, cmd := none } }.flag F.gclkPend true).flag
            F.gclkIdleLock false)))) ∧
    (∀ b, x.clk.phase = .locking b →
      Does s (.gclkIdleLock d) d ({ x with clk := { x.clk with phase := .settling } }.flag F.gclkIdleLock true)) ∧
    (x.clk.phase = .locking false →
      Does s (.gclkLockTimeout d) d { x with clk := { x.clk with phase := .locking true } }) ∧
    (x.clk.phase = .locking true → x.clk.cmd = none →
      Does s (.gclkLockTimeout d) d (x.gclkIdle.bump F.gclkLockFails) ∧
      Raises s (.gclkLockTimeout d) d 0x15 x.clk.target) ∧
    (x.clk.phase = .settling → x.on F.gclkRun = true → x.takeover = .none →
      Does s (.gclkSettleDone d) d { x with clk := { x.clk with phase := .waiting } }) ∧
    (x.takeover = .none → x.on F.ldbEn = false →
      let done (y : Die) (syn : Nat) : Die :=
        ((((({ y with clk := { y.clk with seg := segClamp (y.get F.segLog2) } }.flag F.gclkRun true).put F.gclkSyn syn).put
          F.gclkCur x.clk.target).bump F.gclkSwitches).gclkIdle)
      (x.clk.phase = .settling → x.on F.gclkRun = false → x.power ≠ .booting →
        Does s (.gclkSettleDone d) d (done { x with clk := { x.clk with phase := .waiting } } 0) ∧
        (x.clk.cmd = none → Raises s (.gclkSettleDone d) d 0x14 x.clk.target)) ∧
      (x.clk.phase = .waiting → x.on F.gclkRun = true →
        Does s (.gclkSwitch d) d (done x (1 - x.get F.gclkSyn)) ∧
        (x.clk.cmd = none → Raises s (.gclkSwitch d) d 0x14 x.clk.target)))

end Sys2Proof

/-- O9: both parts, `ReferenceClock` and `GclkRequestsRun`, for every state. Readings of the model that it rests on, not
rules of the spec: log entries 9, 12, 53. -/
def Obligations.ClocksFollowTheirRequests : Prop := ReferenceClock ∧ GclkRequestsRun

/-- O10 (R72, R80, R318): a slip is counted and makes its block count as lost; a new segment length, and a new LDB rate, are
stored while the formatter is disabled; while it is enabled a rate is refused, and so is a segment that is no longer than the
row's off time or makes the scan too slow (R313). Readings of the model that it rests on, not rules of the spec: log
entries 12. -/
def Obligations.ClockSettings : Prop :=
  ∀ (s : State) (d : DieId), s.Up d →
    let x := s.at d
    (∀ k : Lane, x.on F.qEnable = true →
      Raises s (.ebSlip d k) d 0x17 (laneDetail k) ∧
      ∃ t, exec (.ebSlip d k) s = .next t ∧ (t.die d).get F.ebSlips = min (x.get F.ebSlips + 1) 0xFFFFFFFF ∧
        ((t.die d).lane k).slipped = true) ∧
    (∀ v : Word, v.toNat % 16 ≠ x.get F.segLog2 →
      let bad := x.on F.ldbEn = true ∧ (2 ^ segClamp (v.toNat % 16) ≤ x.get F.offGclk ∨ (x.on F.gclkRun = true ∧
        scanTooSlow x.scanRatio (segClamp (v.toNat % 16)) (x.get F.gclkCur) x.rateMin = true))
      (¬ bad → Does s (.gclkSegWrite d v) d (x.put F.segLog2 (v.toNat % 16))) ∧
      (bad → Does s (.gclkSegWrite d v) d x ∧ Raises s (.gclkSegWrite d v) d 0xAC (refusedDetail 0x040C v))) ∧
    (∀ v : Word, x.on F.ldbEn = false → v.toNat % 8 ≤ 4 → v.toNat % 8 ≠ x.get F.ldbRate →
      Does s (.ldbRateWrite d v) d (x.put F.ldbRate (v.toNat % 8))) ∧
    (∀ v : Word, x.on F.ldbEn = true ∨ 4 < v.toNat % 8 → v.toNat % 8 ≠ x.get F.ldbRate →
      Does s (.ldbRateWrite d v) d x ∧ Raises s (.ldbRateWrite d v) d 0x18 (refusedDetail 0x0410 v))

namespace Sys2Proof

/-- A command answers a next state in which `P` holds of its die. -/
def Ends (s : State) (c : Instr) (d : DieId) (P : Die → Prop) : Prop := ∃ t, exec c s = .next t ∧ P (t.die d)

/-- Lane `k` holds `l` and stands in state `n` of R96. -/
def LaneAt (x : Die) (k : Lane) (n : Nat) (l : LaneState) : Die := (x.setLane k l).laneTo k n

end Sys2Proof

/-- O11 (R88, R91, R92, R96, R387): QPHY_CFG. Setting ENABLE takes every lane to DETECT with the taps of QPHY_TX_INIT, clamped;
clearing it takes every lane to DISABLED and out of traffic; RATE is stored while the port is disabled, and refused with its event
while it stays enabled, the other fields being stored. Readings of the model that it rests on, not rules of the spec: log
entries 13, 34, 52. -/
def Obligations.PortSettings : Prop :=
  ∀ (s : State) (d : DieId) (v : Word), s.Up d → (s.at d).barOpen = true →
    let x := s.at d
    let fields (y : Die) : Prop := y.get F.tapMode = bits v.toNat 2 1 ∧ y.get F.retune = bits v.toNat 3 1
    (x.on F.qEnable = false →
      Ends s (.qphyEnable d v) d fun y =>
        y.on F.qEnable = true ∧ y.get F.qRate = v.toNat % 4 ∧ fields y ∧ y.get F.traffic = 0 ∧
        ∀ k : Lane, y.laneSt k = 1 ∧ (y.lane k).failRun = 0 ∧ (y.lane k).port = true ∧
          y.get (F.tapPre k.val) = min (x.get F.txPre) 15 ∧
          y.get (F.tapPost k.val) = min (min (x.get F.txPost) 31) (36 - min (x.get F.txPre) 15)) ∧
    (x.on F.qEnable = true → (∀ k : Lane, x.laneSt k ≠ 7) →
      Ends s (.qphyDisable d v) d fun y =>
        y.on F.qEnable = false ∧ y.get F.traffic = 0 ∧ fields y ∧ ∀ k : Lane, y.laneSt k = 0) ∧
    (x.on F.qEnable = false → v.getLsbD 4 = false →
      Ends s (.qphyRateWrite d v) d fun y => y.get F.qRate = v.toNat % 4 ∧ fields y ∧ y.qphy = x.qphy) ∧
    (x.on F.qEnable = true → v.getLsbD 4 = true → v.toNat % 4 ≠ x.get F.qRate →
      (Ends s (.qphyRateWrite d v) d fun y => y.get F.qRate = x.get F.qRate ∧ fields y ∧ y.qphy = x.qphy) ∧
      Raises s (.qphyRateWrite d v) d 0x2E (refusedDetail 0x1000 v))

namespace Sys2Proof

/-- Out-lane `k` of `y` sends one training block (R93, R106): SEQ counts on, and the scrambler goes on by the block; it sends none
while it carries traffic or the transmitters are off. -/
def TsSent (y : Die) (k : Lane) : Die :=
  if (y.lane k).outTs = true ∧ y.clk.txOff = false then
    y.setLane k { ((y.lane k).scrambled (ctrlBlock (y.tsBlock k).toNat)).2 with tsSeq := (y.lane k).tsSeq + 1 }
  else y

/-- (R93, R96–R98, R100, R101): the way of a lane through training, step by step, in every state of the die: nothing else
changes but the lane and the counts named. -/
def LanesTrain : Prop :=
  ∀ (s : State) (d : DieId) (k : Lane), s.Up d →
    let x := s.at d
    let l := x.lane k
    let tx := l.port || l.outTs
    (x.laneSt k = 1 → Does s (.laneDetect d k) d
      (TsSent (LaneAt x k 2 { l with verified := false, readyRun := 0, search := none, req := none, outTs := tx }) k)) ∧
    (x.laneSt k = 2 → Does s (.cdrLock d k) d (TsSent (LaneAt x k 3 l) k)) ∧
    (∀ ts, x.laneSt k = 3 → isTs ts = true → blk ts 18 2 = x.get F.qRate →
      let y := x.tookBlock (Fin.ofNat 4 (x.get (F.lanePhys k.val))) (x.on (F.laneInv k.val)) ts
      let l := y.lane k
      let tune := x.on F.tapMode = false ∧ l.noTune = false ∧ (l.port = true ∨ x.on F.retune = true ∨ l.verifyFailed = true)
      (tune → Does s (.blockLock d k ts) d
        (TsSent (LaneAt y k 4 { l with search := some tapStart, req := some (0, 0), tuned := true }) k)) ∧
      (¬ tune → Does s (.blockLock d k ts) d (TsSent (LaneAt y k 5 { l with tuned := false }) k))) ∧
    (∀ t h w, x.laneSt k = 4 → l.search = some t → x.echoes k = true →
      let t' := t.step h.toNat w.toNat
      (∀ p, t'.point = some p → Does s (.tapTunePointDone d k h w) d
        (TsSent (x.setLane k { l with search := some t', req := some p }) k)) ∧
      (t'.point = none → Does s (.tapTunePointDone d k h w) d
        (TsSent (LaneAt x k 5 { l with search := none, req := some t'.bestTaps }) k))) ∧
    (x.echoes k = false → ∀ h w, Does s (.tapTunePointDone d k h w) d x) ∧
    (x.laneSt k = 4 → x.echoes k = false → Does s (.laneTapEchoMismatch d k) d (LaneAt x k 5 { l with search := none, req := none }) ∧
      (l.retrying = false → Raises s (.laneTapEchoMismatch d k) d 0x27 (laneDetail k))) ∧
    (∀ h w : Byte, x.laneSt k = 5 → x.get F.minH ≤ h.toNat → x.get F.minW ≤ w.toNat → l.port = false →
      let y := x.setLane k { l with verified := true, verifyFailed := false }
      Does s (.verifyPass d k h w) d
        (if l.tuned then (y.put (F.eyeVH k.val) h.toNat).put (F.eyeVW k.val) w.toNat else y)) ∧
    (∀ h w : Byte, x.laneSt k = 5 → x.get F.minH ≤ h.toNat → x.get F.minW ≤ w.toNat → l.port = true → 8 ≤ l.readyRun →
      Ends s (.verifyPass d k h w) d fun y => y.laneSt k = 6 ∧ (y.lane k).failRun = 0 ∧ (y.lane k).retrying = false) ∧
    (x.laneSt k = 8 → Does s (.laneFailedRetry d k) d
      (LaneAt x k 1 { l with retrying := true, verified := false, readyRun := 0, search := none, req := none }))

/-- (R99, R100): an attempt that fails. The timeouts of CDR_ACQ, BLOCK_LOCK and VERIFY and a TS of another rate are counted
and send the lane back; the third in a row takes it to FAILED; a lane that retries from FAILED returns there without an event; a
TAP_TUNE timeout is no failure. -/
def LaneAttemptsFail : Prop :=
  ∀ (s : State) (d : DieId) (k : Lane), s.Up d →
    let x := s.at d
    let l := x.lane k
    let fails (y : Die) (n : Nat) : Prop :=
      y.get (F.trainFails k.val) = min (x.get (F.trainFails k.val) + 1) 0xFFFF ∧ (y.lane k).failRun = l.failRun + 1 ∧
        y.laneSt k = (if l.retrying = true ∨ 2 ≤ l.failRun then 8 else n)
    (∀ st n, (st = 2 ∧ n = 1) ∨ (st = 3 ∧ n = 2) ∨ (st = 5 ∧ n = 1) → x.laneSt k = st →
      (Ends s (.laneTrainTimeout d k) d fun y => fails y n) ∧
      (l.retrying = false → l.failRun < 2 → Raises s (.laneTrainTimeout d k) d 0x23 (laneDetail k st))) ∧
    (x.laneSt k = 4 →
      (Ends s (.laneTrainTimeout d k) d fun y =>
        y.laneSt k = 5 ∧ (y.lane k).req = l.search.map (·.bestTaps) ∧ (y.lane k).failRun = l.failRun) ∧
      (l.retrying = false → Raises s (.laneTrainTimeout d k) d 0x23 (laneDetail k 4))) ∧
    (∀ ts, x.laneSt k = 3 → isTs ts = true → blk ts 18 2 ≠ x.get F.qRate →
      (Ends s (.blockLock d k ts) d fun y => fails y 1) ∧
      (l.retrying = false → l.failRun < 2 →
        Raises s (.blockLock d k ts) d 0x2D (laneDetail k + 256 * blk ts 18 2)))

end Sys2Proof

/-- O12: both parts, `LanesTrain` and `LaneAttemptsFail`, for every state. Readings of the model that it rests on, not
rules of the spec: log entries 9, 13, 52, 53. -/
def Obligations.LanesTrainOrFail : Prop := LanesTrain ∧ LaneAttemptsFail

namespace Sys2Proof

/-- The search of R97 under measurements `m`, for at most `n` points. -/
def searchRun (m : Nat × Nat → Nat × Nat) : Nat → TapSearch → TapSearch
  | 0, t => t
  | n + 1, t =>
    match t.point with
    | none => t
    | some p => searchRun m n (t.step (m p).1 (m p).2)

end Sys2Proof

/-- O13 (R97): whatever the eye measures, the tap search ends within 21 points, asks for a setting that it has measured and that
lies in range, and no POST of its first part is better than that setting. -/
def Obligations.TapSearchKeepsTheBest : Prop :=
  ∀ m : Nat × Nat → Nat × Nat,
    let r := searchRun m 21 tapStart
    r.point = none ∧
    ∃ pre post, r.best = some ((m (pre, post)).1, (m (pre, post)).2, pre, post) ∧ pre ≤ 14 ∧ post ≤ 31 ∧
      ∀ p ∈ searchPosts, betterTaps ((m (0, p)).1, (m (0, p)).2, 0, p) ((m (pre, post)).1, (m (pre, post)).2, pre, post) = false

/-- O14 (R91–R95, R98): training and status blocks: the tap request is clamped and applied to the named out-lane, the echo is
kept, order and polarity are corrected with one event per training, the eighth TS that shows RX_READY completes the handshake,
and an LS sets what each out-lane carries. Readings of the model that it rests on, not rules of the spec: log entries 52,
53. -/
def Obligations.LaneBlocksAct : Prop :=
  ∀ (s : State) (d : DieId), s.Up d → (s.at d).on F.qEnable = true →
    let x := s.at d
    (∀ (phys k : Lane) (inv : Bool) (ts : BitVec 64), isTs ts = true → blk ts 8 2 = k.val → blk ts 18 2 = x.get F.qRate →
      (Ends s (.tsReceive d phys inv ts) d fun y =>
        y.get (F.tapRpre k.val) = blk ts 32 4 ∧ y.get (F.tapRpost k.val) = blk ts 36 5 ∧
        (blk ts 20 1 = 1 → ∀ j : Lane, blk ts 21 2 = j.val →
          y.get (F.tapPre j.val) = blk ts 23 4 ∧ y.get (F.tapPost j.val) = min (blk ts 27 5) (36 - blk ts 23 4)) ∧
        (2 ≤ x.laneSt k → x.laneSt k ≤ 5 → y.get (F.lanePhys k.val) = phys.val ∧ y.on (F.laneInv k.val) = inv) ∧
        (x.laneSt k = 5 → (x.lane k).verified = true → (x.lane k).port = true → 7 ≤ (x.lane k).readyRun →
          (blk ts 14 4).testBit k.val = true → y.laneSt k = 6)) ∧
      (2 ≤ x.laneSt k → x.laneSt k ≤ 5 → phys ≠ k ∨ inv = true → x.qphy.orderRaised = false →
        Ends s (.tsReceive d phys inv ts) d fun y => y.get F.evtCode = 0x26 ∧ y.qphy.orderRaised = true)) ∧
    (∀ ls : BitVec 64, isLs ls = true → blk ls 15 3 = 0 →
      Ends s (.lsReceive d ls) d fun y => ∀ k : Lane,
        let req := (blk ls 14 4).testBit k.val
        let pat := if (blk ls 18 4).testBit k.val && !req then some (blk ls 22 2, blk ls 24 1 != 0) else none
        let ts := req || (x.lane k).outTs || (pat.isNone && (x.lane k).outPrbs.isSome)
        (y.lane k).outPrbs = pat ∧ (y.lane k).outTs = ts ∧
          (y.lane k).outJoin = (!req && pat.isNone && ts && ((blk ls 10 4).testBit k.val || (x.lane k).outJoin)))

namespace Sys2Proof

/-- The PRBS checker of a lane in SERVICE gains and loses sync, reports that it has none, and hands the lane back
to VERIFY at the end, when the command completes. -/
def ServiceRuns : Prop :=
  ∀ (s : State) (d : DieId) (k : Lane), s.Up d → (s.at d).laneSt k = 7 →
    let x := s.at d
    let added (y : Die) (errors n : Nat) : Prop :=
      y.get (F.prbsErr k.val) = min (x.get (F.prbsErr k.val) + errors) 0xFFFFFFFF ∧
      y.get (F.prbsBitsLo k.val) + 2 ^ 32 * y.get (F.prbsBitsHi k.val) =
        min (x.get (F.prbsBitsLo k.val) + 2 ^ 32 * x.get (F.prbsBitsHi k.val) + n) (2 ^ 48 - 1)
    let tried := x.setLane k { x.lane k with prbsTried := true }
    Does s (.prbsSync d k) d (tried.flag (F.prbsSync k.val) true) ∧
    ((x.lane k).prbsTried = true → Does s (.prbsNoSync d k) d x) ∧
    ((x.lane k).prbsTried = false → Does s (.prbsNoSync d k) d tried ∧ Raises s (.prbsNoSync d k) d 0x2B (laneDetail k)) ∧
    (∀ errors n, x.on (F.prbsSync k.val) = true →
      Ends s (.prbsSyncLoss d k errors n) d fun y => y.on (F.prbsSync k.val) = false ∧ added y errors n) ∧
    (∀ errors n,
      Ends s (.laneServiceEnd d k errors n) d fun y =>
        y.laneSt k = 5 ∧ (y.lane k).serviceReq = none ∧ y.on (F.prbsSync k.val) = false ∧ y.hif.service = none ∧
        (x.on (F.prbsSync k.val) = true → added y errors n)) ∧
    (∀ j, x.hif.service = some j → j.live = true → x.hif.logging = false → x.hif.held = [] → x.cmpSpace = true →
      x.hif.d3hot = false → Emits s (.laneServiceEnd d k 0 0) d (x.completionOut j.cmd 0x00 0))

end Sys2Proof

/-- O15 (R99–R103, R105, R328): lanes in traffic: loss of lock retrains the lane and takes it out of traffic, and with no lane
left the whole port; a cross scan keeps its readings and raises MARGIN_LOW; the partner's sleep takes lanes 1–3 to ASLEEP; and the PRBS checker of a
lane in SERVICE runs (`ServiceRuns`). Readings of the model that it rests on, not rules of the spec: log entries 13, 18,
34, 52. -/
def Obligations.LanesInTraffic : Prop :=
  ServiceRuns ∧
  ∀ (s : State) (d : DieId), s.Up d →
    let x := s.at d
    (∀ k : Lane, x.laneSt k = 6 → (∀ j, x.laneSt j ≠ 7) →
      ((∃ j, j ≠ k ∧ x.laneSt j = 6) →
        Ends s (.laneLockLost d k) d fun y =>
          y.laneSt k = 2 ∧ (y.lane k).retrainReq = true ∧ y.inTraffic k = false ∧
          y.get (F.lockLosses k.val) = min (x.get (F.lockLosses k.val) + 1) 0xFFFF ∧
          ∀ j, j ≠ k → y.lane j = x.lane j ∧ y.laneSt j = x.laneSt j) ∧
      ((∀ j, j ≠ k → x.laneSt j ≠ 6) →
        Ends s (.laneLockLost d k) d fun y => y.get F.traffic = 0 ∧ (y.lane k).retrainReq = true ∧ ∀ j, y.laneSt j = 1 ∧ (y.lane j).port = true)) ∧
    (∀ (k : Lane) (h w : Byte), x.laneSt k = 6 → x.get F.marginPeriod ≠ 0 → x.hif.scan = none →
      (Ends s (.marginCrossScan d k h w) d fun y =>
        y.get (F.eyeH k.val) = h.toNat ∧ y.get (F.eyeW k.val) = w.toNat ∧
        y.get (F.eyeVH k.val) = x.get (F.eyeVH k.val) ∧ y.get (F.eyeVW k.val) = x.get (F.eyeVW k.val)) ∧
      (h.toNat < x.get F.minH ∨ w.toNat < x.get F.minW → (x.lane k).lowRaised = false →
        x.get (F.eyeVH k.val) < h.toNat + x.get F.deltaH →
        Raises s (.marginCrossScan d k h w) d 0x28 (laneDetail k 0 h.toNat w.toNat))) ∧
    (x.acd.nbrLeaving = true → x.laneSt 0 = 6 → x.power ≠ .deep →
      Ends s (.lanePartnerAsleep d) d fun y => y.laneSt 0 = 6 ∧ y.inTraffic 0 = x.inTraffic 0 ∧
        ∀ k : Lane, k ≠ 0 → y.laneSt k = 9 ∧ y.inTraffic k = false)

/-- O16 (R106): the descrambler undoes the scrambler: over any number of bits, and with the same last 58 bits at both ends, it
returns the payload and ends in the scrambler's state. -/
def Obligations.DescramblerInvertsScrambler : Prop :=
  ∀ (n v : Nat) (st : BitVec 58), descramble n (scramble n v st).1 st = (v % 2 ^ n, (scramble n v st).2)

namespace Sys2Proof

/-- Every lane is in traffic, and none has slipped; training has found each on an input of its own (R91). -/
def AllLanes (x : Die) : Prop :=
  x.on F.qEnable = true ∧ (∀ k : Lane, x.laneSt k = 6 ∧ x.inTraffic k = true ∧ (x.lane k).slipped = false) ∧
    ∀ i j : Lane, x.get (F.lanePhys i.val) = x.get (F.lanePhys j.val) → i = j

end Sys2Proof

/-- O17 (R107, R110–R112): a stripe on four lanes in traffic, `b` being the blocks of the four inputs. Whole and even, it counts nothing; whole and uneven, a parity
mismatch; with one invalid block, a reconstruction, and the parcels received are those of the whole stripe, whichever input it is;
with more, DOUBLE is set. -/
def Obligations.StripesAreRepaired : Prop :=
  ∀ (s : State) (d : DieId) (b : Lane → BitVec 66), s.Up d → AllLanes (s.at d) →
    let x := s.at d
    let c (b : Lane → BitVec 66) : Instr := .stripeReceive d (b 0) (b 1) (b 2) (b 3)
    let clear (k : Lane) : BitVec 66 := (x.unscrambleAll (b 0) (b 1) (b 2) (b 3)).1.getD k.val 0
    let parity := clear 0 ^^^ clear 1 ^^^ clear 2 ^^^ clear 3
    let bad := (lanesAll.filter fun k => !hdrOk (clear k)).length
    (Ends s (c b) d fun y =>
      y.pcl.rxStripe = x.pcl.rxStripe + 1 ∧
      y.get F.pclRecon = min (x.get F.pclRecon + (if bad = 1 then 1 else 0)) 0xFFFFFFFF ∧
      y.get F.pclParity = min (x.get F.pclParity + (if bad = 0 ∧ parity ≠ 0 then 1 else 0)) 0xFFFFFFFF ∧
      (2 ≤ bad → y.on F.double = true ∧ y.pcl.badStripe = true)) ∧
    (bad = 0 → parity = 0 → ∀ (k : Lane) (e : BitVec 66), hdrOk e = false →
      ∃ t u, exec (c b) s = .next t ∧ exec (c fun j => if j = k then e else b j) s = .next u ∧
        (u.die d).pcl.rx = (t.die d).pcl.rx ∧ (u.die d).pcl.rxDone = (t.die d).pcl.rxDone)

namespace Sys2Proof

/-- Out-lane `k` of `x` has sent block `c` for the block `b`: the same sync header, and the far descrambler recovers the
payload. -/
def Carries (x : Die) (k : Lane) (b c : BitVec 66) : Prop :=
  syncHdr c = syncHdr b ∧ (descramble 64 (pay64 c) (x.lane k).txScr).1 = pay64 b

/-- (R94, R98, R109, R118): CC slots. A slot of four IDLE or LS blocks aligns the receiver and takes lanes that wait into
traffic; a die sends IDLE, or LS on each lane under its own number; a missing slot is reported once; a parcel whose length
was lost ends as failed once the longest would have ended. -/
def SlotsAlignTheLanes : Prop :=
  ∀ (s : State) (d : DieId), s.Up d →
    let x := s.at d
    (∀ b0 b1 b2 b3, x.on F.qEnable = true →
      (∀ b ∈ (x.unscrambleAll b0 b1 b2 b3).1, btype b = 0x1E ∨ btype b = 0xD4) →
      Ends s (.ccSlotReceive d b0 b1 b2 b3) d fun y =>
        y.pcl.rxStripe = 0 ∧ y.pcl.badStripe = false ∧ y.pcl.ccMissing = false ∧
        ∀ k, (y.lane k).slipped = false ∧
          (x.laneSt k = 6 ∨ (x.laneSt k = 5 ∧ (x.lane k).verified = true ∧ (x.lane k).port = false) →
            y.laneSt k = 6 ∧ y.inTraffic k = true) ∧
          (x.laneSt k ≠ 6 → x.laneSt k ≠ 5 → y.laneSt k = x.laneSt k ∧ y.inTraffic k = x.inTraffic k)) ∧
    (x.on F.qEnable = true → x.clk.txOff = false →
      (∀ k, x.laneSt k ≠ 9 ∧ (x.lane k).outPrbs = none ∧ (x.lane k).outTs = false) →
      let f := x.lsFields
      let due := f ≠ x.qphy.lsLast ∨ x.qphy.lsAge < 16 ∨ 3 ≤ x.qphy.lsSkip
      Ends s (.ccSlotSend d) d fun y => y.pcl.txStripe = 0 ∧ y.qphy.lsLast = f ∧
        ∃ c0 c1 c2 c3, Out.blocks c0 c1 c2 c3 ∈ y.out ∧
          ∀ k : Lane, Carries x k (if due then ctrlBlock (laneBlock (f + 2 ^ 8 * k.val)).toNat else idleBlock)
            ([c0, c1, c2, c3].getD k.val 0)) ∧
    (x.get F.traffic ≠ 0 → x.pcl.ccMissing = false →
      Does s (.ccSlotMissing d) d { x with pcl := { x.pcl with ccMissing := true } } ∧
      Raises s (.ccSlotMissing d) d 0x3A 0) ∧
    (∀ h n, x.pcl.rx = .open h n →
      (7203 ≤ n → Does s (.parcelOpenTimeout d) d { x.bump F.pclFail with pcl := { x.pcl with rx := .none } }) ∧
      (n < 7203 → Does s (.parcelOpenTimeout d) d x))

/-- (R113, R114, R117, R119): what leaves at a parcel boundary of a die that forwards, with a lane in traffic: a local TIME
parcel first; forwarded parcels while more than 8 KiB wait or it is their turn; local ones in turn. A local parcel leaves closed
with its port's alive counter, which counts on; a forwarded one leaves as it came. The port of a cut-off die (R174) carries none of them. -/
def ParcelsLeaveInOrder : Prop :=
  ∀ (s : State) (d : DieId), s.Up d →
    let x := s.at d
    let c : Instr := .parcelTransmit d
    (x.on F.cutOff = true → Does s c d x) ∧
    (x.forwards = true → x.on F.cutOff = false → x.portAsleep = false → x.get F.traffic ≠ 0 → x.clk.txOff = false →
      let closed (l : TxLocal) (y : Die) : Prop :=
        let key := 2 * pType l.bytes + b2n (nextHop l.bytes)
        let a := (look x.pcl.txAlive key).getD 0
        Out.parcel (sealParcel (cvuSel x 0) (if l.auth then l.bytes ++ x.tag l.bytes a else l.bytes) a) ∈ y.out ∧
          look y.pcl.txAlive key = some (a + 1)
      (∀ l ls, x.pcl.timeQ = l :: ls → Ends s c d fun y =>
        closed l y ∧ y.pcl.timeQ = ls ∧ y.pcl.fwdQ = x.pcl.fwdQ ∧ y.pcl.locQ = x.pcl.locQ) ∧
      (x.pcl.timeQ = [] →
        (∀ f fs, x.pcl.fwdQ = f :: fs → 8192 < x.fwdBytes ∨ x.pcl.localTurn = false ∨ x.pcl.locQ = [] →
          Ends s c d fun y => Out.parcel f ∈ y.out ∧ y.pcl.fwdQ = fs ∧ y.pcl.locQ = x.pcl.locQ ∧
            y.pcl.txAlive = x.pcl.txAlive ∧ y.pcl.localTurn = true) ∧
        (∀ l ls, x.pcl.locQ = l :: ls → (x.fwdBytes ≤ 8192 ∧ x.pcl.localTurn = true) ∨ x.pcl.fwdQ = [] →
          Ends s c d fun y => closed l y ∧ y.pcl.locQ = ls ∧ y.pcl.fwdQ = x.pcl.fwdQ ∧ y.pcl.localTurn = false)))

end Sys2Proof

/-- O18: both parts, `SlotsAlignTheLanes` and `ParcelsLeaveInOrder`, for every state. -/
def Obligations.SlotsAndParcelsMove : Prop := SlotsAlignTheLanes ∧ ParcelsLeaveInOrder

namespace Sys2Proof

/-- The command that the arrival of parcel `p` at die `d` is. -/
inductive Arrives (d : DieId) (p : RxParcel) : Instr → Prop
  | video : pType p.bytes = 1 → Arrives d p (.videoParcelReceive d p)
  | unknown : typeReserved (pType p.bytes) = true → Arrives d p (.parcelTypeUnknown d p)
  | ctrl : pType p.bytes = 2 → Arrives d p (.ctrlParcelReceive d p)
  | ack : pType p.bytes = 3 → Arrives d p (.ackReceive d p)
  | stat : pType p.bytes = 5 → Arrives d p (.statReceive d p)
  | sync (sub : BitVec 4) : pType p.bytes = 4 → timeKind p.bytes = 1 → Arrives d p (.syncReceive d p sub)
  | beacon : pType p.bytes = 4 → timeKind p.bytes = 2 → Arrives d p (.beaconReceive d p)
  | frameDone : pType p.bytes = 4 → timeKind p.bytes = 3 → Arrives d p (.frameDoneReceive d p)
  | deadline : pType p.bytes = 4 → timeKind p.bytes = 4 → Arrives d p (.deadlineReceive d p)
  | badKind : pType p.bytes = 4 → timeKind p.bytes = 0 ∨ 4 < timeKind p.bytes → Arrives d p (.timeParcelBadKind d p)

/-- The receive alive key of a parcel on the own port (R233). -/
def keyOf (p : RxParcel) : AliveKey :=
  .parcel (BitVec.ofNat 8 (pSrc p.bytes)) (BitVec.ofNat 4 (pType p.bytes)) (nextHop p.bytes) false

/-- The parcel is no longer among those that the port has delimited. -/
def Seen (x : Die) (p : RxParcel) : Die := { x with pcl := { x.pcl with rxDone := x.pcl.rxDone.eraseP (·.1 == p) } }

/-- What a parcel leaves that passes its check, and how its key then stands. -/
def Counted (x : Die) (p : RxParcel) : Die := ((Seen x p).count64 F.pclGoodLo F.pclGoodHi).bump (F.cvuPass 0)
def Kept (x : Die) (p : RxParcel) : Die :=
  { x with pcl := { x.pcl with rxAlive := assoc x.pcl.rxAlive (keyOf p) (pAlive p.bytes) } }

/-- The port is served, and the parcel passes its check. -/
def Passes (x : Die) (p : RxParcel) : Prop :=
  x.on F.qEnable = true ∧ x.forwards = true ∧ pLen p.bytes ≤ 57600 ∧ p.lost = false ∧ checkOk (x.rxCode p) p.bytes = true

/-- The head that CVU-T gives a stitch message of class `cls` with payload `pay` (R166, R228–R232). -/
def HeadOf (x : Die) (cls : Nat) (pay : List Byte) : StiHead :=
  stiHead (cvuSel x 1) cls pay ((look x.sti.txAlive cls).getD 0)

/-- It also passes the alive test without a gap. -/
def Sound (x : Die) (p : RxParcel) : Prop :=
  Passes x p ∧ aliveTest (look x.pcl.rxAlive (keyOf p)) (pAlive p.bytes) = .accepted

/-- The die that has taken a sound parcel. -/
def Taken (x : Die) (p : RxParcel) : Die := Kept (Counted x p) p

end Sys2Proof

/-- O19 (R11, R54, R117, R118, R233, R234): what every parcel goes through at its port, whatever its type: nothing at a die that does
not forward or whose port is disabled; one that fails its check is counted and goes no further; one that repeats its alive
counter is counted, good in its check, and goes no further; and one addressed to neither this module nor the next hop is, after
the alive test, forwarded to the other die and has no other effect. -/
def Obligations.ParcelsAreChecked : Prop :=
  ∀ (s : State) (d : DieId) (p : RxParcel) (c : Instr), s.Up d → Arrives d p c →
    let x := s.at d
    (x.on F.qEnable = false ∨ x.forwards = false → Does s c d x) ∧
    (x.on F.qEnable = true → x.forwards = true →
      (57600 < pLen p.bytes → Does s c d ((Seen x p).bump F.pclFormat)) ∧
      (pLen p.bytes ≤ 57600 → p.lost = true ∨ checkOk (x.rxCode p) p.bytes = false →
        Does s c d (((Seen x p).bump (F.cvuFail 0)).bump F.pclFail))) ∧
    (Passes x p → aliveTest (look x.pcl.rxAlive (keyOf p)) (pAlive p.bytes) = .repeated →
      Does s c d ((Counted x p).bump (F.cvuRepeat 0))) ∧
    (Passes x p → ∀ n, aliveTest (look x.pcl.rxAlive (keyOf p)) (pAlive p.bytes) = .gap n → pType p.bytes ≠ 1 →
      x.addressed p.bytes = false → Does s c d ((Kept ((Counted x p).bump (F.cvuGap 0) n) p).forward p.bytes)) ∧
    (Sound x p → pType p.bytes ≠ 1 → x.addressed p.bytes = false →
      Does s c d ((Taken x p).forward p.bytes) ∧
      (x.stitchUp = true → Emits s c d (.stiParcel (HeadOf x 3 p.bytes) ⟨.received, p.bytes⟩)))

/-- O20 (R13, R116, R118, R121, R122, R238): a VIDEO parcel at a die that it names, sound: an in-range slice of the frame under way is
committed to its place in DRAM, where its payload is then read, and no other byte of memory changes; a copy of a committed slice
is counted as one; an older slice is counted and reported as stale; a slice beyond the half is refused with PARCEL_FORMAT.
Readings of the model that it rests on, not rules of the spec: log entries 43. -/
def Obligations.SlicesAreCommitted : Prop :=
  ∀ (s : State) (d : DieId) (p : RxParcel), s.Up d →
    let x := s.at d
    let c : Instr := .videoParcelReceive d p
    let n := pFrame p.bytes
    let i := pSlice p.bytes
    let b := x.tmg.pending
    let a := x.placeAt b i
    let pay := payload p.bytes
    let y := { Taken x p with acd := { x.acd with videoSeen := some (max n (x.acd.videoSeen.getD n)) } }
    pType p.bytes = 1 → Sound x p → x.addressed p.bytes = true → namesDie (pDie p.bytes) x.id = true →
    x.master = false →
      (x.videoOk p.bytes = false →
        Does s c d (y.forward p.bytes) ∧ Raises s c d 0x39 (parcelDetail p.bytes false)) ∧
      (x.videoOk p.bytes = true →
        let committed := ∃ k ∈ bufNumbers, ∃ e ∈ (x.buf k).slices, e.1 = i ∧ e.2.1 = n
        (committed → Does s c d ((y.bump F.pclCopy).forward p.bytes)) ∧
        (¬ committed → ∀ m, x.newest = some m → n < m →
          Does s c d ((y.bump F.pclStale).forward p.bytes) ∧ Raises s c d 0x34 (parcelDetail p.bytes false)) ∧
        (¬ committed → b < 4 → (x.buf b).frame = some n → x.newest = some n → x.permits 0 true a pay.length 1 = true →
          (∃ j < x.slices, j ≠ i ∧ ∀ e ∈ (x.buf b).slices, e.1 ≠ j) →
          Ends s c d fun z =>
            z.peek true a pay.length = pay ∧
            (∀ a', a' < a ∨ a + pay.length ≤ a' → Memory.read 0 z.mem.dram a' = Memory.read 0 x.mem.dram a') ∧
            z.mem.scratch = x.mem.scratch ∧
            (z.buf b).slices = (x.buf b).slices ++ [(i, n, pLen p.bytes, pCodec p.bytes)] ∧
            (z.buf b).settled = (x.buf b).settled ∧ ∀ k, k ≠ b → z.buf k = x.buf k))

namespace Sys2Proof

/-- The ACK or NAK that this die answers `p` with (R126). -/
def answerTo (x : Die) (p : List Byte) (code dup high map : Nat) : TxLocal :=
  ⟨mkHeader 3 false false (pSrc p) x.addr (dieBit x.id) (pOdie p) (pSeq p) 0 0 8 ++
    (le 1 code ++ le 1 dup ++ le 2 high ++ le 4 map), false⟩

end Sys2Proof

/-- O21 (R118, R123–R126, R146, R149, R152): a sound CTRL parcel for this die on its own port, addressed otherwise than 0xFF: out of
format it is NAK_FORMAT; unauthenticated where that is required, NAK_AUTH with its event; from a new origin it opens a window
and is queued; ahead by at most 32,767 it slides the window and is queued; in the window it is queued once and then answered as
a duplicate; too old it is NAK_STALE with its event; and where the queue holds 16 it is NAK_BUSY and the window stays.
Readings of the model that it rests on, not rules of the spec: log entries 22, 43. -/
def Obligations.ControlParcelsAreAnswered : Prop :=
  ∀ (s : State) (d : DieId) (p : RxParcel), s.Up d →
    let x := s.at d
    let c : Instr := .ctrlParcelReceive d p
    let q := p.bytes
    let seq := BitVec.ofNat 16 (pSeq q)
    let answered (z : Die) (code dup high map : Nat) : Prop :=
      z.pcl.locQ = x.pcl.locQ ++ [answerTo x q code dup high map]
    let queued (z : Die) : Prop :=
      z.pcl.wallQ = x.pcl.wallQ ++ [⟨BitVec.ofNat 8 (pSrc q), pOdie q == 1, seq, false, wallBody q⟩] ∧
        z.get F.wallDepth = (x.pcl.wallQ.length + 1) % 32
    let same (z : Die) : Prop := z.pcl.wallQ = x.pcl.wallQ ∧ z.pcl.windows = x.pcl.windows
    pType q = 2 → Sound x p → x.addressed q = true → pDst q ≠ 0xFF → namesDie (pDie q) x.id = true → pAuth q = false →
    8 ≤ pLen q → pLen q ≤ 512 →
      (x.on F.authRequire = true →
        (Ends s c d fun z => z.pcl.wallQ = x.pcl.wallQ ∧ z.pcl.windows = x.pcl.windows ∧
          ∃ high map, answered z 3 0 high map) ∧
        Raises s c d 0x48 (256 * pSrc q + 65536 * pSeq q)) ∧
      (x.on F.authRequire = false →
        (wallFormatOk (wallBody q) = false → Ends s c d fun z => same z ∧ ∃ high map, answered z 4 0 high map) ∧
        (wallFormatOk (wallBody q) = true → natAt (wallBody q) 0 1 < 3 ∨ x.on F.wallAdmin = true →
          (x.window q = none → x.pcl.wallQ.length < 16 → Ends s c d fun z => queued z ∧
            z.pcl.windows = ((newWindow q) :: x.pcl.windows.filter fun v =>
              !(v.src == BitVec.ofNat 8 (pSrc q) && v.odie == (pOdie q == 1) && v.dst == BitVec.ofNat 8 (pDst q))).take 4 ∧
            answered z 0 0 (pSeq q) 1) ∧
          (x.window q = none → 16 ≤ x.pcl.wallQ.length → Ends s c d fun z => same z ∧ answered z 1 0 0 0 ∧
            z.get F.nakBusyCount = min (x.get F.nakBusyCount + 1) 0xFFFF) ∧
          (∀ w, x.window q = some w →
            let ahead := (seq - w.high).toNat
            let back := (w.high - seq).toNat
            (1 ≤ ahead → ahead ≤ 32767 → x.pcl.wallQ.length < 16 → Ends s c d fun z => queued z ∧
              answered z 0 0 (pSeq q) ((w.map <<< ahead) ||| 1).toNat ∧
              z.window q = some { w with high := seq, map := (w.map <<< ahead) ||| 1 }) ∧
            (back ≤ 31 → w.map.getLsbD back = true → Ends s c d fun z =>
              z.pcl.wallQ = x.pcl.wallQ ∧ answered z 0 1 w.high.toNat w.map.toNat ∧ z.window q = some w ∧
              z.get F.pclCtrlDup = min (x.get F.pclCtrlDup + 1) 0xFFFFFFFF) ∧
            (back ≤ 31 → w.map.getLsbD back = false → x.pcl.wallQ.length < 16 → Ends s c d fun z => queued z ∧
              answered z 0 0 w.high.toNat (w.map ||| 1 <<< back).toNat ∧
              z.window q = some { w with map := w.map ||| 1 <<< back }) ∧
            (32768 ≤ ahead → 31 < back →
              (Ends s c d fun z => z.pcl.wallQ = x.pcl.wallQ ∧ answered z 2 0 w.high.toNat w.map.toNat ∧ z.window q = some w) ∧
              Raises s c d 0x36 (256 * pSrc q + 65536 * pSeq q)) ∧
            (1 ≤ ahead → ahead ≤ 32767 → 16 ≤ x.pcl.wallQ.length → Ends s c d fun z =>
              z.pcl.wallQ = x.pcl.wallQ ∧ answered z 1 0 w.high.toNat w.map.toNat ∧ z.window q = some w))))

/-- O22 (R115, R118–R120, R123, R127, R128, R149): a reserved TYPE that addresses the module is reported; STAT and other answers cross
to their origin die; the die originates STAT, retransmits a CTRL up to 4 times and then marks it MISSING, takes an answer, and
repeats after NAK_BUSY under the same SEQ. Readings of the model that it rests on, not rules of the spec: log entries 43. -/
def Obligations.OriginsReconcile : Prop :=
  ∀ (s : State) (d : DieId), s.Up d →
    let x := s.at d
    (∀ p : RxParcel, typeReserved (pType p.bytes) = true → Sound x p → x.addressed p.bytes = true →
      namesDie (pDie p.bytes) x.id = true →
      Does s (.parcelTypeUnknown d p) d ((Taken x p).forward p.bytes) ∧
      Raises s (.parcelTypeUnknown d p) d 0x38 (parcelDetail p.bytes false)) ∧
    (∀ p : RxParcel, pType p.bytes = 5 → Sound x p → pLen p.bytes = 32 → pDie p.bytes < 2 →
      Does s (.statReceive d p) d ((Taken x p).forward p.bytes)) ∧
    (x.on F.statEn = true → x.forwards = true → (x.power = .relay → x.deepAllowed = false) → x.acd.ownA ≠ 0xFF → x.acd.farA = 0xFF → x.acd.farB = 0xFF →
      x.locBytes + 55 ≤ 16384 →
      Does s (.statSend d) d { x with pcl := { x.pcl with
        heldSince := 0
        locQ := x.pcl.locQ ++ [⟨x.statParcel (s.ctx d) 0 0 (List.replicate 8 0), false⟩] } }) ∧
    (∀ (p : RxParcel) (o : Outstanding), pType p.bytes = 3 → Sound x p → x.addressed p.bytes = true →
      pDst p.bytes = x.addr → x.originDie p.bytes = true → pLen p.bytes = 8 → pDie p.bytes = 0 → natAt (payload p.bytes) 0 1 = 0 →
      x.pcl.outstanding = [o] → o.matches p.bytes = true → o.missing = false → o.needW = true → o.needE = false →
      o.nakE = none → o.high = none → o.cmd = none →
      Does s (.ackReceive d p) d ({ Taken x p with pcl := { (Taken x p).pcl with
        missing := x.pcl.missing.filter (· != o.dst), outstanding := [] } }.forward p.bytes)) ∧
    (∀ (dst : Byte) (seq : BitVec 16) (o : Outstanding), x.outstandingOf dst seq = some o → dst ≠ 0xFF →
      o.needW = true ∨ o.needE = true → x.pcl.outstanding = [o] →
      (o.retx < 4 → Ends s (.ctrlRetransmitTimeout d dst seq) d fun z =>
        z.pcl.outstanding = [{ o with retx := o.retx + 1, sent := o.sent + 1 }] ∧
        z.get F.pclRetx = min (x.get F.pclRetx + 1) 0xFFFFFFFF ∧
        ∀ b t, o.bytes = b :: t → z.pcl.locQ = x.pcl.locQ ++ [⟨(b ||| 0x10) :: t, o.auth⟩]) ∧
      (4 ≤ o.retx → x.pcl.missing.contains dst = false → o.cmd = none →
        Does s (.ctrlRetransmitTimeout d dst seq) d { x.bump F.pclMissing with pcl := { x.pcl with
          missing := x.pcl.missing ++ [dst], outstanding := [{ o with missing := true, cmd := none }] } } ∧
        Raises s (.ctrlRetransmitTimeout d dst seq) d 0x35 (dst.toNat + 256 * pDie o.bytes + 65536 * seq.toNat))) ∧
    (∀ (dst : Byte) (seq : BitVec 16) (o : Outstanding), x.outstandingOf dst seq = some o → x.pcl.outstanding = [o] →
      o.needW = false → o.needE = false → o.nakW = some 1 → o.nakE = none → o.busy < 8 →
      Ends s (.nakBusyRetry d dst seq) d fun z =>
        z.pcl.outstanding = [{ o with needW := true, nakW := none, retx := 0, sent := o.sent + 1, busy := o.busy + 1 }] ∧
        ∀ b t, o.bytes = b :: t → z.pcl.locQ = x.pcl.locQ ++ [⟨(b ||| 0x10) :: t, o.auth⟩])

namespace Sys2Proof

/-- What an order on a plain field of R150 writes. -/
def FieldSet (x : Die) (field value : Nat) : Die :=
  match field with
  | 1 => x.put F.brightness value
  | 2 => x.put F.eotfSel value
  | 3 => { x with acd := { x.acd with freeze := value != 0 } }
  | 5 => x.put F.heartEn value
  | 6 => x.put F.topEn value
  | 8 => x.put F.tableBank value
  | _ => x.put F.ditherPhase value

/-- A wall command of this origin has been executed, and the queue is `q`. -/
def Executed (x : Die) (w : WallCmd) (q : List WallCmd) : Die :=
  { x with pcl := { x.pcl with wallQ := q, lastSeq := assoc x.pcl.lastSeq w.origin w.seq } }.updQueue

/-- The command by which the head of the wall queue executes, by its opcode. -/
def wallInstr (d : DieId) : Nat → Instr
  | 0 => .wallNop d
  | 1 => .wallSetField ⟨d, false⟩
  | 2 => .wallStatusQuery d
  | 3 => .wallAddrAssign d
  | 4 => .wallRoleSet d
  | _ => .wallLatencySet d

end Sys2Proof

/-- O23 (R146–R151): the wall command at the head of the queue of a die that forwards. With WHEN = 0 it has its effect at once: NOP
none, SET_FIELD the field's under ownership (over a host order of the same CCLK), STATUS_QUERY a STAT with the query's SEQ, ADDR_ASSIGN the address where the
hop count fits, ROLE_SET and LATENCY_SET their registers. Otherwise it moves into the deferred set, and waits while that is full.
Readings of the model that it rests on, not rules of the spec: log entries 22, 41. -/
def Obligations.WallCommandsExecute : Prop :=
  ∀ (s : State) (d : DieId) (w : WallCmd) (t : List WallCmd), s.Up d →
    let x := s.at d
    let b := w.bytes
    let op := natAt b 0 1
    x.forwards = true → x.pcl.wallQ = w :: t → op ≤ 5 →
      (natAt b 1 1 ≠ 0 → x.framePast b = false →
        (x.pcl.deferred.length < 16 → Does s (wallInstr d op) d
          { x with pcl := { x.pcl with wallQ := t, deferred := x.pcl.deferred ++ [w] } }.updQueue) ∧
        (16 ≤ x.pcl.deferred.length → Does s (wallInstr d op) d x)) ∧
      (natAt b 1 1 = 0 →
        (op = 0 → Does s (.wallNop d) d (Executed x w t)) ∧
        (op = 1 →
          let f := natAt b 8 1
          let v := natAt b 12 4
          let y := { x with acd := { x.acd with wallSeqs := assoc x.acd.wallSeqs f w.seq } }
          (fieldOk f v = true → x.owner f = 1 →
            Does s (.wallSetField ⟨d, false⟩) d (Executed x w t) ∧ Raises s (.wallSetField ⟨d, false⟩) d 0x4A (f + 256)) ∧
          (fieldOk f v = true → x.owner f ≠ 1 → f ≠ 4 → f ≠ 7 → f ≠ 8 ∨ x.wear.pass = false →
            Does s (.wallSetField ⟨d, false⟩) d (Executed (FieldSet y f v) w t)) ∧
          (fieldOk f v = true → x.owner f = 0 → f ≠ 4 → f ≠ 7 → f ≠ 8 → ∀ hb : List Byte,
            x.Head hb false false false [(8, 2), (12, 4)] (fieldOk (natAt hb 9 1) (natAt hb 12 4)) →
            opIs 0x04 hb = true → natAt hb 8 1 = 0 → natAt hb 9 1 = f →
            Does s (.wallSetField ⟨d, true⟩) d (Executed (FieldSet y f v) w t) ∧
            Emits s (.wallSetField ⟨d, true⟩) d (x.completionOut x.headCmd 0x01 0) ∧
            Raises s (.wallSetField ⟨d, true⟩) d 0x4B (f + 512 + 65536 * w.seq.toNat)) ∧
          (f = 4 → v ≤ 1 →
            Does s (.wallSetField ⟨d, false⟩) d (Executed { y with acd := { y.acd with wallBlank := v != 0 } } w t) ∧
            (v = 0 → x.acd.hostBlank = true → Raises s (.wallSetField ⟨d, false⟩) d 0x4B (4 + 256 + 65536 * w.seq.toNat))) ∧
          (f = 7 → v = 1 → x.power = .active → x.on F.scanOwn = true →
            Ends s (.wallSetField ⟨d, false⟩) d fun z =>
              z.acd.wallSil = true ∧ z.on F.silWall = true ∧ z.power = .active ∧ z.acd.hostSil = x.acd.hostSil)) ∧
        (op = 2 → w.far = false → x.locBytes + 55 ≤ 16384 →
          let tail := [(1 : Byte), 0] ++ le 2 w.seq.toNat ++ le 2 ((look x.pcl.lastSeq w.origin).getD 0).toNat ++
            le 1 t.length ++ [0]
          Does s (.wallStatusQuery d) d (Executed { x with pcl := { x.pcl with
            locQ := x.pcl.locQ ++ [⟨x.statParcel (s.ctx d) w.src.toNat (b2n w.odie) tail, false⟩] } } w t)) ∧
        (op = 3 →
          let hops := if natAt b 8 1 = 0 then x.get F.hopsA else x.get F.hopsB
          (x.addr = 0 → hops ≠ 0xFF → hops = natAt b 9 1 →
            Does s (.wallAddrAssign d) d (Executed (x.put F.pclAddr (natAt b 10 1)) w t)) ∧
          (x.addr ≠ 0 ∨ hops ≠ natAt b 9 1 → Does s (.wallAddrAssign d) d (Executed x w t))) ∧
        (op = 4 → Does s (.wallRoleSet d) d (Executed (x.put F.role (natAt b 8 1)) w t)) ∧
        (op = 5 → Does s (.wallLatencySet d) d (Executed (x.put F.latencyUs (natAt b 8 2)) w t)))

namespace Sys2Proof

/-- (R130, R134, R116): hop counts. A BEACON with HOPS = h gives the module the count h + 1 through this port from the end it
names, a count that is not refreshed becomes unknown, and the module's counts are the smaller of both ports'; a TIME parcel of
an unknown KIND is counted; one out of form is reported. -/
def HopCountsFollowBeacons : Prop :=
  ∀ (s : State) (d : DieId), s.Up d →
    let x := s.at d
    (∀ p : RxParcel, pType p.bytes = 4 → Sound x p → pDst p.bytes = 0xFE → timeOk p.bytes = true →
      let h := natAt (payload p.bytes) 1 1
      let e := natAt (payload p.bytes) 2 1
      timeKind p.bytes = 2 → h < 0xFF →
        (e = 0 → Ends s (.beaconReceive d p) d fun z =>
          z.acd.ownA = BitVec.ofNat 8 (h + 1) ∧ z.acd.ownB = x.acd.ownB ∧
          z.get F.hopsA = min (h + 1) x.acd.farA.toNat ∧ z.get F.hopsB = min x.acd.ownB.toNat x.acd.farB.toNat) ∧
        (e = 1 → Ends s (.beaconReceive d p) d fun z =>
          z.acd.ownB = BitVec.ofNat 8 (h + 1) ∧ z.acd.ownA = x.acd.ownA ∧
          z.get F.hopsB = min (h + 1) x.acd.farB.toNat ∧ z.get F.hopsA = min x.acd.ownA.toNat x.acd.farA.toNat)) ∧
    (∀ p : RxParcel, pType p.bytes = 4 → Sound x p → x.addressed p.bytes = true → timeOk p.bytes = true →
      timeKind p.bytes = 0 ∨ 4 < timeKind p.bytes →
      Does s (.timeParcelBadKind d p) d (((Taken x p).bump F.badTime).forward p.bytes)) ∧
    (∀ (p : RxParcel) (c : Instr), pType p.bytes = 4 → Arrives d p c → Sound x p → x.addressed p.bytes = true →
      timeOk p.bytes = false →
      Does s c d ((Taken x p).forward p.bytes) ∧ Raises s c d 0x39 (parcelDetail p.bytes false)) ∧
    (∀ endB far : Bool, Ends s (.hopCountExpire d endB far) d fun z =>
      z.acd.ownA = (if !endB && !far then 0xFF else x.acd.ownA) ∧ z.acd.ownB = (if endB && !far then 0xFF else x.acd.ownB) ∧
      z.acd.farA = (if !endB && far then 0xFF else x.acd.farA) ∧ z.acd.farB = (if endB && far then 0xFF else x.acd.farB) ∧
      z.get F.hopsA = min z.acd.ownA.toNat z.acd.farA.toNat ∧ z.get F.hopsB = min z.acd.ownB.toNat z.acd.farB.toNat)

/-- (R130, R131, R134–R137, R140, R142): SYNC. A master sends its claim with its time, any other die, and one that is cut
off (R174), its link fields with TIME_OK = 0; a received SYNC without time leaves the echo fields and, where it names a departure that is kept, one link exchange;
one with time, at a JOINED die with 16 exchanges and no better copy, gives its offset and the master's rate, and an offset
above 10 µs a step and LOCK. Times are in units of 2^-32 ns. -/
def SyncsCarryTime : Prop :=
  ∀ (s : State) (d : DieId), s.Up d →
    let x := s.at d
    (∀ sub, x.sendsSync = true →
      Ends s (.syncSend d sub) d fun z =>
        z.acd.linkSeq = x.acd.linkSeq + 1 ∧
        z.acd.departs = ((x.acd.linkSeq, x.acd.time + sub.toNat * subUnit) :: x.acd.departs).take 4 ∧
        z.acd.syncSeq = (if x.master && !x.on F.cutOff then x.acd.syncSeq + 1 else x.acd.syncSeq) ∧
        ∃ q a, Out.parcel (sealParcel (cvuSel x 0) q a) ∈ z.out ∧ pType q = 4 ∧ pDst q = 0xFE ∧
          natAt q 15 1 = 1 ∧ natAt q 21 1 = x.acd.linkSeq.toNat ∧ natAt q 22 1 = x.acd.echoSeq.toNat ∧
          (x.master = true → x.on F.cutOff = false → natAt q 18 1 = x.addr ∧ natAt q 25 1 = 0 ∧ (natAt q 20 1).testBit 0 = true ∧
            (natAt q 20 1).testBit 3 = true ∧
            natAt q 27 8 = (x.acd.time + sub.toNat * subUnit) / 2 ^ 32 % 2 ^ 64) ∧
          (x.master = false ∨ x.on F.cutOff = true → (natAt q 20 1).testBit 3 = false)) ∧
    (∀ (p : RxParcel) (sub : BitVec 4), pType p.bytes = 4 → timeKind p.bytes = 1 → Sound x p → pDst p.bytes = 0xFE →
      timeOk p.bytes = true →
      let pay := payload p.bytes
      let flags := natAt pay 5 1
      let tr := x.acd.time + sub.toNat * subUnit
      (flags.testBit 3 = false →
        Ends s (.syncReceive d p sub) d fun z =>
          z.acd.echoSeq = BitVec.ofNat 8 (natAt pay 6 1) ∧ z.acd.echoAt = tr ∧ z.acd.nbrLeaving = flags.testBit 4 ∧
          z.acd.time = x.acd.time ∧
          (flags.testBit 4 = true → z.acd.exchanges = []) ∧
          (flags.testBit 4 = false → flags.testBit 2 = false → z.acd.exchanges = x.acd.exchanges) ∧
          (∀ t1, flags.testBit 4 = false → flags.testBit 2 = true → x.on F.rateOk = true →
            x.acd.departs.find? (fun q => q.1 == BitVec.ofNat 8 (natAt pay 7 1)) = some (BitVec.ofNat 8 (natAt pay 7 1), t1) →
            let e : Int := (((tr : Int) - t1) / 2 ^ 28 - natAt pay 26 4) / 2
            (x.acd.exchanges = [] ∨ (e - x.linkDelay).natAbs ≤ 32 → z.acd.exchanges = (e :: x.acd.exchanges).take 16) ∧
            (x.acd.exchanges ≠ [] → 32 < (e - x.linkDelay).natAbs → z.acd.exchanges = [] ∧ z.get F.evtCode = 0x4C))) ∧
      (flags.testBit 3 = true → flags.testBit 4 = false → flags.testBit 2 = false → x.master = false →
        x.get F.master = natAt pay 3 1 → x.get F.join = 4 → 16 ≤ x.acd.exchanges.length → x.recent x.acd.farAt = false →
        let mt : Nat := natAt pay 12 8 * 2 ^ 32 + (natAt pay 20 6 + x.linkDelay.toNat * 4096) * 2 ^ 16 - sub.toNat * subUnit
        let off : Int := (x.acd.time : Int) - (mt : Int)
        Ends s (.syncReceive d p sub) d fun z =>
          z.acd.syncSeq = BitVec.ofNat 16 (natAt pay 8 2) ∧ z.acd.ownAt = some x.cclk ∧
          z.acd.ownDist = BitVec.ofNat 8 (natAt pay 10 1 + 1) ∧
          z.get F.accOffset = ofSigned 32 (off / 268435456) ∧
          z.acd.rates = ((mt, x.cclk) :: x.acd.rates).take 17 ∧
          (off.natAbs ≤ stepLimit → z.acd.time = x.acd.time ∧ z.get F.join = 4) ∧
          (stepLimit < off.natAbs → z.acd.time = mt ∧ z.get F.join = 3)))

end Sys2Proof

/-- O24: both parts, `HopCountsFollowBeacons` and `SyncsCarryTime`, for every state. Readings of the model that it rests
on, not rules of the spec: log entries 16, 18. -/
def Obligations.TimeParcelsCarryTime : Prop := HopCountsFollowBeacons ∧ SyncsCarryTime

/-- O25 (R14, R137–R141): the master role. A die claims with the real-time counter where it has no time base, and without a step
where it has one; a standby takes over without a step, three syncs on; either is JOINED and the master from then on. A member
listens again after 1 s without a sync, and reports once that no claim is seen. Readings of the model that it rests on,
not rules of the spec: log entries 9, 21, 54. -/
def Obligations.MastersClaim : Prop :=
  ∀ (s : State) (d : DieId), s.Up d →
    let x := s.at d
    let rules (z : Die) : Prop := z.master = true ∧ z.get F.join = 4 ∧ z.get F.master = x.addr ∧ z.get F.mdist = 0 ∧
      z.on F.rateOk = true ∧ z.acd.rate = 0 ∧ z.acd.yielded = false
    (x.claims = true →
      Ends s (.masterClaim d) d fun z => rules z ∧
        z.acd.time = (if x.acd.based then x.acd.time else s.mod.rtc.toNat * 1000000000 * nsUnit) ∧
        (x.acd.based = false → z.acd.based = true)) ∧
    (x.get F.role = 2 ∨ x.acd.yielded = true → x.master = false → x.power = .active ∨ x.power = .relay →
      Ends s (.masterTakeover d) d fun z =>
        rules z ∧ z.acd.time = x.acd.time ∧ z.acd.syncSeq = x.acd.syncSeq + 3 ∧ z.acd.awaitDone = true) ∧
    (x.master = false → 3 ≤ x.get F.join →
      (Ends s (.accordSyncLost d) d fun z => z.get F.join = 1 ∧ z.on F.rateOk = false ∧ z.acd.time = x.acd.time ∧
        z.acd.stepped = false ∧ z.acd.synced = false ∧ z.acd.rate = x.acd.rate) ∧
      Raises s (.accordSyncLost d) d 0x44 0) ∧
    (x.master = false → x.acd.noMaster = false →
      Does s (.accordNoMaster d) d { x with acd := { x.acd with noMaster := true } } ∧ Raises s (.accordNoMaster d) d 0x43 0)

/-- O26 (R130, R132, R143, R144, R154, R240): frames and their deadlines. The master stamps a frame with its time and the wall
latency and sends the DEADLINE to both ports, and again 100 µs later; a die takes the first deadline of the current master for
each frame, late or not; a key word is stored until the seal and not after it. Readings of the model that it rests on,
not rules of the spec: log entries 20, 21, 48. -/
def Obligations.FramesGetDeadlines : Prop :=
  ∀ (s : State) (d : DieId), s.Up d →
    let x := s.at d
    (∀ p : RxParcel, pType p.bytes = 4 → timeKind p.bytes = 3 → Sound x p → x.addressed p.bytes = true →
      timeOk p.bytes = true →
      let n := natAt (payload p.bytes) 4 6
      let dl : Deadline := ⟨n, x.ns + x.latencyNs, match x.acd.stamped with
        | some l => if l.frame + 1 = n then l.time else x.ns + x.latencyNs
        | none => x.ns + x.latencyNs⟩
      (x.stamps = true → x.unstamped n = true → x.acd.deadlines.any (·.frame == n) = false →
        Ends s (.frameDoneReceive d p) d fun z => z.acd.stamped = some dl ∧ dl ∈ z.acd.deadlines ∧
          ∃ q : List Byte, pType q = 4 ∧ pDst q = 0xFF ∧ z.acd.repeatDl = x.acd.repeatDl ++ [q] ∧ z.pcl.timeQ = x.pcl.timeQ ++ [⟨q, false⟩] ∧
            natAt q 15 1 = 4 ∧ natAt q 16 1 = x.addr % 256 ∧ natAt q 19 6 = n ∧ natAt q 25 8 = dl.time % 2 ^ 64) ∧
      (x.stamps = false → Ends s (.frameDoneReceive d p) d fun z => z.acd.stamped = x.acd.stamped ∧ z.pcl.timeQ = x.pcl.timeQ)) ∧
    (∀ p : RxParcel, pType p.bytes = 4 → timeKind p.bytes = 4 → Sound x p → x.addressed p.bytes = true →
      timeOk p.bytes = true →
      let pay := payload p.bytes
      let dl : Deadline := ⟨natAt pay 4 6, natAt pay 10 8, natAt pay 24 8⟩
      (natAt pay 1 1 ≠ x.get F.master → Does s (.deadlineReceive d p) d ((Taken x p).forward p.bytes)) ∧
      (natAt pay 1 1 = x.get F.master → x.acd.deadlines.any (·.frame == dl.frame) = true →
        Does s (.deadlineReceive d p) d ((Taken x p).forward p.bytes)) ∧
      (natAt pay 1 1 = x.get F.master → x.acd.deadlines.any (·.frame == dl.frame) = false →
        (Ends s (.deadlineReceive d p) d fun z => z.acd.deadlines = x.acd.deadlines ++ [dl]) ∧
        (dl.time < x.ns → Raises s (.deadlineReceive d p) d 0x46 (min ((x.ns - dl.time) / 1000) 0xFFFFFFFF)))) ∧
    (x.acd.repeatDl = [] → Does s (.deadlineRepeat d) d x) ∧
    (∀ q t, x.acd.repeatDl = q :: t → Ends s (.deadlineRepeat d) d fun z =>
      z.acd.repeatDl = t ∧ z.pcl.timeQ = x.pcl.timeQ ++ [⟨q, false⟩] ∧
      (x.stitchUp = true → Out.stiParcel (HeadOf x 3 q) ⟨.originated false, q⟩ ∈ z.out)) ∧
    (∀ (k : Fin 4) (v : Word), x.barOpen = true →
      Does s (.accAcdKeyWrite d k v) d (if x.on F.sealed then x else x.put (F.accKey k.val) v.toNat))

namespace Sys2Proof

/-- A stitch message of class `cls` with payload `pay` passes CVU-T, has the header of R166 and passes the alive test. -/
def Heard (x : Die) (cls : Nat) (pay : List Byte) (h : StiHead) : Prop :=
  h.passes (cvuSel x 1) pay = true ∧ h.header = stiHeader cls pay ∧ aliveTest (look x.pcl.rxAlive (.stitch (BitVec.ofNat 4 cls))) h.alive = .accepted

/-- The die that has taken such a message. -/
def HeardBy (x : Die) (cls : Nat) (h : StiHead) : Die :=
  { x.bump (F.cvuPass 1) with
    sti := { x.sti with failRun := 0 }
    pcl := { x.pcl with rxAlive := assoc x.pcl.rxAlive (.stitch (BitVec.ofNat 4 cls)) h.alive } }

/-- (R54, R78, R171, R174, R175): the states of the stitch. Training starts from DOWN while both dies are past BOOTING and REFCLK is
not held, fails back to DOWN, and ends in UP at the sixteenth good STATUS each way; silence or a fourth failing message takes UP
to DOWN; a cut-off die whose hold interval expires hands off unless it is in DRYDOWN. -/
def StitchStates : Prop :=
  ∀ (s : State) (d : DieId), s.Up d →
    let x := s.at d
    let peer := (s.die d.other).power
    let barred := x.sti.barred || (s.die d.other).sti.barred
    (x.get F.stiState = 0 → x.power ≠ .booting → peer ≠ .booting → barred = false →
      let y := { x.put F.stiState 1 with sti := { x.sti with good := 0, failRun := 0 } }
      Does s (.stitchTrainStart d) d y ∧
      (x.sti.peerBooted = false → Does s (.peerStateChange d) d { y with sti := { y.sti with peerBooted := true } })) ∧
    (x.power = .booting ∨ peer = .booting ∨ barred = true → Does s (.stitchTrainStart d) d x) ∧
    (peer = .booting → x.get F.stiState ≠ 2 → Does s (.peerStateChange d) d
      { x.put F.stiState 0 with sti := { x.sti with peerBooted := false } }) ∧
    (x.get F.stiState = 1 → Does s (.stitchTrainFail d) d (x.put F.stiState 0)) ∧
    (x.get F.stiState = 1 → ∀ (h : StiHead) (m : StiStatus) (latency : Byte), Heard x 4 m.bytes h →
      (x.sti.good < 15 → Ends s (.stitchStatusReceive d h m true latency) d fun z =>
        z.sti.good = x.sti.good + 1 ∧ z.get F.stiState = 1 ∧ z.sti.peer = some m) ∧
      (15 ≤ x.sti.good → barred = false → m.woke = false → Ends s (.stitchStatusReceive d h m true latency) d fun z =>
        z.get F.stiState = 2 ∧ z.get F.stiLatency = latency.toNat ∧ z.on F.peerUnknown = false ∧ z.on F.cutOff = false ∧
        z.sti.upAt = x.cclk) ∧
      (∀ g : StiHead, g.passes (cvuSel x 1) m.bytes = false → Ends s (.stitchStatusReceive d g m true latency) d fun z =>
        z.sti.good = 0 ∧ z.get F.stiState = 1 ∧ z.get F.stiCheckFail = min (x.get F.stiCheckFail + 1) (2 ^ F.stiCheckFail.width - 1))) ∧
    (x.get F.stiState = 2 →
      let down (z : Die) : Prop := z.get F.stiState = 0 ∧ z.on F.locked = false ∧ z.on F.peerUnknown = true ∧
        z.get F.stiDownCount = min (x.get F.stiDownCount + 1) (2 ^ F.stiDownCount.width - 1) ∧ z.sti.peer = none
      Ends s (.stitchDown d) d down ∧
      (∀ (h : StiHead) (m : StiTime) (sub : BitVec 4), h.passes (cvuSel x 1) m.bytes = false → 3 ≤ x.sti.failRun →
        Ends s (.stitchTimeReceive d h ⟨m, sub⟩) d down)) ∧
    (x.get F.stiState ≠ 2 → x.on F.cutOff = true → x.sti.holdRuns = true → x.sti.holdExpired = false →
      (Ends s (.stitchHoldExpired d) d fun z => z.sti.holdRuns = false ∧ z.sti.holdExpired = true ∧
        (x.power = .drydown → z.power = .drydown ∧ z.get F.silStitch = x.get F.silStitch) ∧
        (x.power ≠ .drydown → z.on F.silStitch = true)) ∧
      (x.power = .drydown → Raises s (.stitchHoldExpired d) d 0xE3 0))

/-- (R134, R166–R169, R172, R234, R326, R341): the messages of the stitch. Each leaves with its class's alive counter, which counts on;
a message that fails CVU-T is counted and has no other effect short of the fourth, and one under a wrong header is discarded and
counted; while the stitch is UP each class has its
effect, and while it is not, none but STATUS. -/
def StitchMessages : Prop :=
  ∀ (s : State) (d : DieId), s.Up d →
    let x := s.at d
    (x.get F.stiState ≠ 0 → Ends s (.stitchStatusSend d) d fun z =>
      ∃ m, Out.stiStatus (HeadOf x 4 m.bytes) m ∈ z.out ∧ look z.sti.txAlive 4 = some ((look x.sti.txAlive 4).getD 0 + 1) ∧
        m.power.toNat = x.power.code ∧ m.join.toNat = x.get F.join ∧ m.lanes.toNat = x.get F.traffic ∧ m.woke = x.sti.woke ∧
        z.sti.woke = false) ∧
    (x.get F.stiState = 2 → x.power ≠ .deep → Ends s (.stitchTimeSend d) d fun z =>
      let m : StiTime := ⟨x.acd.ownA, x.acd.ownB, x.id, none⟩
      Out.stiTime (HeadOf x 2 m.bytes) m ∈ z.out ∧
        look z.sti.txAlive 2 = some ((look x.sti.txAlive 2).getD 0 + 1)) ∧
    (∀ (cls : Nat) (pay : List Byte) (c : StiHead → Instr),
      (cls = 1 ∧ ∃ m : StiLock, pay = m.bytes ∧ c = fun h => .stitchLockReceive d h m) ∨
        (cls = 2 ∧ ∃ (m : StiTime) (sub : BitVec 4), pay = m.bytes ∧ c = fun h => .stitchTimeReceive d h ⟨m, sub⟩) ∨
        (cls = 3 ∧ ∃ m : StiParcel, pay = m.bytes ∧ c = fun h => .stitchParcelReceive d h m) ∨
        (cls = 5 ∧ ∃ m : StiBlotter, pay = m.bytes ∧ c = fun h => .stitchBlotterReceive d h m) →
      (∀ h, Heard x cls pay h → x.get F.stiState ≠ 2 → Does s (c h) d (HeardBy x cls h)) ∧
      (∀ h : StiHead, h.passes (cvuSel x 1) pay = true → h.header ≠ stiHeader cls pay →
        Does s (c h) d { (x.bump (F.cvuPass 1)).bump F.stiCheckFail with sti := { x.sti with failRun := 0 } }) ∧
      (∀ h : StiHead, h.passes (cvuSel x 1) pay = false → x.get F.stiState ≠ 2 ∨ x.sti.failRun < 3 →
        let y := (x.bump F.stiCheckFail).bump (F.cvuFail 1)
        let y := if cls = 3 then y.bump F.stiFwdLost else y
        Does s (c h) d { y with sti := { x.sti with
          failRun := x.sti.failRun + 1, good := if x.get F.stiState = 1 then 0 else x.sti.good } })) ∧
    (x.get F.stiState = 2 → ∀ h,
      (∀ m : StiLock, Heard x 1 m.bytes h → Does s (.stitchLockReceive d h m) d
        (let y := HeardBy x 1 h
        if m.start.isSome then { y with sti := { y.sti with start := some m } }
        else if m.ready then { y with sti := { y.sti with peerSettled := some (max m.frame (x.sti.peerSettled.getD 0)) } }
        else y)) ∧
      (∀ (m : StiTime) (sub : BitVec 4), Heard x 2 m.bytes h → m.sync = none → m.port ≠ x.id →
        Ends s (.stitchTimeReceive d h ⟨m, sub⟩) d fun z =>
        z.acd.farA = m.hopsA ∧ z.acd.farB = m.hopsB ∧ z.get F.hopsA = min x.acd.ownA.toNat m.hopsA.toNat ∧
        z.get F.hopsB = min x.acd.ownB.toNat m.hopsB.toNat) ∧
      (∀ q, Heard x 3 q h → pType q ≠ 4 → pType q ≠ 5 → ∀ auth, Does s (.stitchParcelReceive d h ⟨.originated auth, q⟩) d
        (let y := HeardBy x 3 h
        { y with pcl := { y.pcl with locQ := y.pcl.locQ ++ [⟨q, auth⟩] } })) ∧
      (∀ q, Heard x 3 q h → x.forwards = true → x.addressed q = false → pType q ≠ 1 → x.fwdBytes + q.length ≤ 131072 →
        aliveTest (look x.pcl.rxAlive (.parcel (BitVec.ofNat 8 (pSrc q)) (BitVec.ofNat 4 (pType q)) (nextHop q) true)) (pAlive q) =
          .accepted →
        Ends s (.stitchParcelReceive d h ⟨.received, q⟩) d fun z =>
          z.pcl.fwdQ = x.pcl.fwdQ ++ [q] ∧ z.pcl.wallQ = x.pcl.wallQ ∧ z.mem = x.mem) ∧
      (∀ m : StiBlotter, Heard x 5 m.bytes h → Does s (.stitchBlotterReceive d h m) d
        ((((HeardBy x 5 h).put F.peerMismatch m.mismatch.toNat).put F.peerFrame m.frame).flag F.peerUnknown false)))

end Sys2Proof

/-- O27: both parts, `StitchStates` and `StitchMessages`, for every state. Readings of the model that it rests on, not
rules of the spec: log entries 9, 18, 44, 53. -/
def Obligations.StitchRuns : Prop := StitchStates ∧ StitchMessages

/-- O28 (R176–R179, R194–R197, R212, R368, R377): the host link and its interface. ENABLE restarts the rings, empties CVU-H's key and
writes HOST_LINK_UP first where the link had been lost; clearing it leaves the head alone; the guarded registers are stored only
while it is 0; link loss resets the interface and the DMA engine but keeps HIF_CMP_SEQ and HIF_STICKY and sends no completion;
D3hot is entered and left; a BAR0 access of a wrong size is dropped or unsupported; HIF_STICKY clears what is written 1; a
holdoff sends what has merged. Readings of the model that it rests on, not rules of the spec: log entries 10, 29, 42. -/
def Obligations.HostLinkAndInterface : Prop :=
  ∀ (s : State) (d : DieId), s.Up d →
    let x := s.at d
    (∀ v : Word, x.barOpen = true → x.on F.hifEnable = false → x.hif.backlog = [] → x.hif.held = [] → x.hif.logLost = 0 →
      x.hif.lost = 0 → x.hif.d3hot = false →
      Ends s (.hifEnable d v) d fun z =>
        z.on F.hifEnable = true ∧ z.on F.hifRunning = true ∧ z.on F.fetchStall = false ∧ z.get F.hifCmdHead = 0 ∧
        z.hif.cmpHead = 0 ∧ z.hif.evtHead = 0 ∧ z.hif.cmpTail = 0 ∧ z.hif.tail = 0 ∧ z.hif.fetched = [] ∧
        z.hif.logging = false ∧ z.hif.layersOff = false ∧ z.hif.linkLost = false ∧ look z.pcl.rxAlive AliveKey.host = none ∧
        (x.hif.linkLost = false → z.hif.evtTail = 0) ∧
        (x.hif.linkLost = true → x.masked 0x55 = false →
          z.hif.evtTail = 1 ∧
          Out.hostWrite (x.base64 0x2028) (eventBytes x.id ⟨0x55, x.ns % 2 ^ 48, 0⟩ (x.get F.evtSeq) 1) false false ∈ z.out)) ∧
    (∀ v : Word, x.barOpen = true → x.on F.hifEnable = true →
      Ends s (.hifDisable d v) d fun z => z.on F.hifEnable = false ∧ z.on F.hifRunning = false ∧
        z.hif.fetched = (if x.hif.wait.isSome || x.hif.fence.isSome || x.aborting then [] else x.hif.fetched.take 1) ∧ z.hif.polling = false ∧ z.hif.fetching = 0) ∧
    (∀ (off : BitVec 16) (v : Word), x.barOpen = true → isHifCfg off.toNat = true → x.keeps off.toNat v = false →
      (x.on F.hifEnable = false → Does s (.hifCfgWrite d off v) d (x.store off.toNat v)) ∧
      (x.on F.hifEnable = true →
        Does s (.hifCfgWrite d off v) d x ∧ Raises s (.hifCfgWrite d off v) d 0x57 (refusedDetail off.toNat v))) ∧
    (∀ cfg, Ends s (.pcieLinkTrain d cfg) d fun z => z.hif.link = cfg ∧ z.on F.hifLinkUp = true) ∧
    (Ends s (.d3hotEntry d) d fun z => z.hif.d3hot = true ∧ z.out = []) ∧
    (x.hif.d3hot = true → Ends s (.d0Return d) d fun z => z.hif.d3hot = false) ∧
    (∀ off v, Does s (.barAccessSize d false off v) d x ∧ Emits s (.barAccessSize d false off v) d .barUnsupported ∧
      Does s (.barAccessSize d true off v) d x ∧ Raises s (.barAccessSize d true off v) d 0x5A (refusedDetail off.toNat v)) ∧
    (∀ v : Word, x.barOpen = true → Ends s (.hifStickyClear d v) d fun z =>
      z.get F.stickyRanges = x.get F.stickyRanges &&& (65535 - v.toNat % 65536) ∧
      z.get F.stickyCount = (if 65536 ≤ v.toNat then 0 else x.get F.stickyCount) ∧
      (x.hif.vecs = [] → ∀ n a w, Out.msix n a w ∉ z.out)) ∧
    (∀ cause, x.on F.hifLinkUp = true ∨ cause = .perstLow → Ends s (.hostLinkDown d cause) d fun z =>
      z.on F.hifLinkUp = false ∧ z.on F.hifEnable = false ∧ z.hif.logging = true ∧ z.hif.linkLost = true ∧ z.hif.fetched = [] ∧
      z.hif.wait = none ∧ z.hif.fence = none ∧ z.hif.held = [] ∧ z.hif.layersOff = true ∧ z.out = [] ∧
      (∀ k, z.chState k = 0 ∧ z.chan k = Channel.reset) ∧ z.get F.cmpSeq = x.get F.cmpSeq ∧
      (∀ j ∈ z.hif.store.toList ++ z.hif.wear.toList ++ z.hif.table.toList, j.live = false) ∧
      z.hif.link = linkReset ∧ z.cst = x.cst ∧ z.acd = x.acd ∧ (x.mem.unlanded = [] → z.mem = x.mem)) ∧
    (∀ v : Fin 32, (∀ merged, look x.hif.holdoff v.val = some merged → x.hif.d3hot = false → x.hif.vecs = [] →
      (merged = false → Ends s (.irqHoldoffExpiry d v) d fun z => look z.hif.holdoff v.val = none) ∧
      (merged = true → x.hif.link.msixEnable = true → x.hif.link.msixMask = false → (smGet msixReset x.hif.msix (4 * v.val + 3)).toNat % 2 = 0 →
        Ends s (.irqHoldoffExpiry d v) d fun z =>
          Out.msix v.val ((smGet msixReset x.hif.msix (4 * v.val)).toNat + 2 ^ 32 * (smGet msixReset x.hif.msix (4 * v.val + 1)).toNat)
            (smGet msixReset x.hif.msix (4 * v.val + 2)) ∈ z.out)))

/-- O29 (R180–R183, R185, R194, R198): the rings move. A poll reads the doorbell; a read that brings a new tail starts the fetch of
entries within one read, one turn of the ring and the 64 that may wait; entries arrive in order; three failed reads in a row stop
fetching; and an entry that fails CVU-H is not executed. Readings of the model that it rests on, not rules of the spec:
log entries 9, 29. -/
def Obligations.RingsMove : Prop :=
  ∀ (s : State) (d : DieId), s.Up d →
    let x := s.at d
    (x.on F.hifRunning = true → x.on F.hifLinkUp = true → x.hif.polling = false → x.hif.d3hot = false →
      Emits s (.doorbellPoll d) d (.hostRead (x.base64 0x2008) 64) ∧
      Ends s (.doorbellPoll d) d fun z => z.hif.polling = true ∧
        z.get F.hifPolls = min (x.get F.hifPolls + 1) (2 ^ F.hifPolls.width - 1)) ∧
    (x.hif.polling = true →
      (Ends s (.doorbellReadDone d none) d fun z => z.hif.fails = x.hif.fails + 1 ∧ z.hif.polling = false ∧
        (2 ≤ x.hif.fails → z.on F.fetchStall = true ∧ z.on F.hifRunning = false) ∧
        (x.hif.fails < 2 → z.on F.fetchStall = x.on F.fetchStall)) ∧
      Raises s (.doorbellReadDone d none) d 0x53 (x.base64 0x2008 % 2 ^ 32)) ∧
    (∀ b : List Byte, x.hif.polling = true → x.hif.fetched = [] → x.hif.held = [] → x.hif.backlog = [] → x.hif.lost = 0 →
      x.hif.logLost = 0 → x.hif.fetching = 0 → x.on F.hifEnable = true → x.on F.fetchStall = false → x.hif.d3hot = false →
      let head := x.get F.hifCmdHead
      let tail := natAt b 0 2
      let avail := (BitVec.ofNat 16 tail - BitVec.ofNat 16 head).toNat
      let n := min (min avail x.fetchMax) (min (x.cmdSize - head % x.cmdSize) 64)
      (1 ≤ avail → avail ≤ x.cmdSize →
        Ends s (.doorbellReadDone d (some b)) d fun z =>
          z.hif.tail = BitVec.ofNat 16 tail ∧ z.hif.fetching = n ∧ z.hif.fails = 0 ∧
          Out.hostRead x.fetchAddr (64 * n) ∈ z.out) ∧
      (avail = 0 → Ends s (.doorbellReadDone d (some b)) d fun z => z.hif.fetching = 0 ∧ z.hif.fetched = []) ∧
      (x.cmdSize < avail → Ends s (.doorbellReadDone d (some b)) d fun z =>
        z.hif.tail = BitVec.ofNat 16 head + BitVec.ofNat 16 x.cmdSize ∧
        z.get F.hifOverrun = min (x.get F.hifOverrun + 1) (2 ^ F.hifOverrun.width - 1))) ∧
    (∀ e : List Byte, x.hif.fetching = 1 → x.hif.fetched = [] → natAt e 1 1 < 2 → x.on F.cvuReq = false →
      Ends s (.commandFetchDone d (some [e])) d fun z =>
        z.hif.fetched = [⟨BitVec.ofNat 16 (x.get F.hifCmdHead), e, false⟩] ∧
        z.get F.hifCmdHead = (x.get F.hifCmdHead + 1) % 65536 ∧ z.hif.ringFails = 0) ∧
    (∀ e : List Byte, x.hif.fetching = 1 → x.hif.fetched = [] → x.ringFree = true → (natAt e 1 1).testBit 1 = true →
      bytesAt e 60 4 ≠ cvuField (cvuSel x 5) 4 (e.take 60) →
      Ends s (.commandFetchDone d (some [e])) d fun z =>
        z.hif.fetched = [] ∧ z.get (F.cvuFail 5) = min (x.get (F.cvuFail 5) + 1) (2 ^ (F.cvuFail 5).width - 1) ∧
        z.get F.evtCode = 0x56 ∧
        x.completionOut ⟨e.getD 0 0, (natAt e 1 1).testBit 0, bytesAt e 4 4, BitVec.ofNat 16 (x.get F.hifCmdHead)⟩ 0x09 0 ∈ z.out) ∧
    (x.hif.fetching ≠ 0 → Ends s (.commandFetchDone d none) d fun z =>
      z.hif.ringFails = x.hif.ringFails + 1 ∧ z.hif.fetching = 0 ∧ z.hif.fetched = x.hif.fetched ∧
      (2 ≤ x.hif.ringFails → z.on F.fetchStall = true))

namespace Sys2Proof

/-- The head of the ring executes and completes now with `st` and `det`, leaving the die as `y`. -/
def Completes (s : State) (c : Instr) (d : DieId) (st det : Nat) (y : Die) : Prop :=
  Does s c d y ∧ Emits s c d ((s.at d).completionOut (s.at d).headCmd st det)

/-- The bytes leave for the host at `a`, in memory writes that each keep within the payload size and cross no multiple of it (R176);
`ro` is their relaxed ordering. -/
def Sends (s : State) (c : Instr) (d : DieId) (a : Nat) (bs : List Byte) (ro : Bool := false) : Prop :=
  let m := (s.at d).maxPayload
  let ps := tlpPieces m (bs.length / 128 + 2) a bs.length
  (ps.flatMap fun p => bytesAt bs (p.1 - a) p.2) = bs ∧
    ∀ p ∈ ps, p.1 % m + p.2 ≤ m ∧ Emits s c d (.hostWrite p.1 (bytesAt bs (p.1 - a) p.2) ro false)

/-- The host is asked for `n` bytes at `a`, in requests that each keep within the read request size (R176). -/
def Asks (s : State) (c : Instr) (d : DieId) (a n : Nat) : Prop :=
  let m := (s.at d).maxRead
  let ps := tlpPieces m (n / 128 + 2) a n
  (ps.map (·.2)).sum = n ∧ ∀ p ∈ ps, p.1 % m + p.2 ≤ m ∧ Emits s c d (.hostRead p.1 p.2)

/-- The command that the entry `b` is when it executes at the head of the ring (R186). -/
inductive Issues (d : DieId) (b : List Byte) : Instr → Prop
  | nop : opIs 0x01 b = true → Issues d b (.nop d)
  | fence : opIs 0x02 b = true → Issues d b (.fence d)
  | waitEvent : opIs 0x03 b = true → Issues d b (.waitEvent d)
  | setField : opIs 0x04 b = true → natAt b 8 1 ≠ 1 → natAt b 8 1 ≠ 2 → Issues d b (.setField d)
  | setFieldRegister : opIs 0x04 b = true → natAt b 8 1 = 1 → Issues d b (.setFieldRegister d)
  | rtcSet : opIs 0x04 b = true → natAt b 8 1 = 2 → Issues d b (.rtcSet d)
  | tableLoad : opIs 0x05 b = true → Issues d b (.tableLoad d)
  | tableRead : opIs 0x06 b = true → Issues d b (.tableRead d)
  | trimRun : opIs 0x07 b = true → Issues d b (.trimRun d)
  | sillageEnter : opIs 0x08 b = true → Issues d b (.sillageEnter d)
  | sillageExit : opIs 0x09 b = true → Issues d b (.sillageExit d)
  | blotterArm : opIs 0x0A b = true → (natAt b 10 1).testBit 1 = false → Issues d b (.blotterArm d)
  | blotterDisarm : opIs 0x0A b = true → (natAt b 10 1).testBit 1 = true → Issues d b (.blotterDisarm d)
  | storeWrite : opIs 0x0B b = true → Issues d b (.storeWrite d)
  | storeRead : opIs 0x0C b = true → Issues d b (.storeRead d)
  | storeErase : opIs 0x0D b = true → Issues d b (.storeErase d)
  | wearExport : opIs 0x0E b = true → Issues d b (.wearExport d)
  | wearImport : opIs 0x0F b = true → Issues d b (.wearImport d)
  | accordSend : opIs 0x10 b = true → Issues d b (.accordSend d)
  | statusSnapshot : opIs 0x11 b = true → Issues d b (.statusSnapshot d)
  | laneService : opIs 0x12 b = true → Issues d b (.laneService d)
  | eyeScan : opIs 0x13 b = true → Issues d b (.eyeScan d)
  | dmaArm : opIs 0x14 b = true → natAt b 9 1 ≠ 2 → natAt b 9 1 ≠ 3 → Issues d b (.dmaArm d)
  | dmaStop : opIs 0x14 b = true → natAt b 9 1 = 2 → Issues d b (.dmaStop d)
  | dmaAbort : opIs 0x14 b = true → natAt b 9 1 = 3 → Issues d b (.dmaAbort d)
  | panelIdRead : opIs 0x15 b = true → Issues d b (.panelIdRead d)
  | defectScan : opIs 0x16 b = true → natAt b 8 1 ≠ 1 → Issues d b (.defectScan d)
  | defectScanInsert : opIs 0x16 b = true → natAt b 8 1 = 1 → Issues d b (.defectScanInsert d)

/-- No engine is busy, and the store is ready. -/
def EnginesFree (x : Die) : Prop :=
  x.hif.table = none ∧ x.hif.trim = none ∧ x.hif.store = none ∧ x.hif.wear = none ∧ x.hif.service = none ∧ x.hif.scan = none ∧
    x.hif.panel = none ∧ x.wear.reading = none ∧ x.on F.cstReady = true ∧ x.sends < 16

/-- (R184–R187, R193): what refuses the head of a free ring with its engine idle, whatever command it is. In DRYDOWN every command
but NOP, FENCE, SILLAGE_EXIT and STATUS_SNAPSHOT completes with STATE; in ACTIVE an entry whose FLAGS, ALIVE, CHECK or length
break the layout completes with BAD_ARG; a reserved opcode completes with BAD_OPCODE. None has another effect. -/
def HeadsAreRefused : Prop :=
  ∀ (s : State) (d : DieId) (b : List Byte), s.Up d →
    let x := s.at d
    (∃ f rest, x.hif.fetched = f :: rest ∧ f.bytes = b ∧ f.bad = false) → x.ringFree = true →
      (∀ c, Issues d b c → EnginesFree x →
        (x.power = .drydown → c ≠ .nop d → c ≠ .fence d → c ≠ .sillageExit d → c ≠ .statusSnapshot d →
          Completes s c d 0x0B 0 x) ∧
        (x.power = .active → entryOk b [(8, 52)] = false → Completes s c d 0x04 0 x)) ∧
      (natAt b 0 1 = 0 ∨ 0x16 < natAt b 0 1 → Completes s (.badOpcode d) d 0x03 0 x)

/-- (R186–R188, R386): the commands of the ring itself. NOP completes; FENCE holds the ring and ends once nothing before it is
unfinished, and the writes that it waits for have then landed; WAIT_EVENT holds it until its event, its time or its timeout; STATUS_SNAPSHOT writes the status registers to the host
in one go, and clears the RC counters where asked. -/
def RingCommandsRun : Prop :=
  ∀ (s : State) (d : DieId) (b : List Byte), s.Up d →
    let x := s.at d
    (opIs 0x01 b = true → x.Head b true false false [] true → Completes s (.nop d) d 0 0 x) ∧
    (opIs 0x02 b = true → x.Head b true false false [(8, 1), (24, 8)] (natAt b 8 1 < 8 && addrOk b) →
      Does s (.fence d) d
        ({ x with hif := { x.hif with fence := some ⟨x.headCmd, bytesAt b 8 52, true⟩ } }.fenceWrites (natAt b 8 1)) ∧
      ((natAt b 8 1).testBit 2 = true →
        Emits s (.fence d) d (.hostRead (if hostAddr b = 0 then x.base64 0x2008 else hostAddr b) 0))) ∧
    (∀ j, x.hif.fence = some j → x.unfinished = false → x.hif.logging = false → x.cmpSpace = true → x.hif.d3hot = false →
      Does s (.fenceDone d) d ({ x with hif := { x.hif with fence := none } }.landWhere (·.fenced)) ∧
      Emits s (.fenceDone d) d (x.completionOut j.cmd 0 0)) ∧
    (∀ j, x.hif.fence = some j → x.unfinished = true → Does s (.fenceDone d) d x) ∧
    (opIs 0x03 b = true →
      x.Head b false false false (waitUsed b) (1 ≤ natAt b 8 1 && natAt b 8 1 ≤ 6 && natAt b 9 1 ≤ 15) →
      (natAt b 8 1 = 6 → natAt b 24 8 ≤ x.ns → Completes s (.waitEvent d) d 0 0 x) ∧
      (natAt b 8 1 ≠ 6 ∨ x.ns < natAt b 24 8 → Does s (.waitEvent d) d
        { x with hif := { x.hif with wait := some ⟨x.headCmd, natAt b 8 1, natAt b 9 1, natAt b 24 8, natAt b 12 4⟩ } })) ∧
    (∀ w, x.hif.wait = some w → x.hif.held = [] → x.cmpSpace = true → x.hif.logging = false → x.hif.d3hot = false →
      let ended : Die := { x with hif := { x.hif with wait := none } }
      (w.kind = 6 → w.time ≤ x.ns →
        Does s (.waitEventTimeReached d) d ended ∧ Emits s (.waitEventTimeReached d) d (x.completionOut w.cmd 0 0)) ∧
      (w.timeout ≠ 0 →
        Does s (.waitEventTimeout d) d ended ∧ Emits s (.waitEventTimeout d) d (x.completionOut w.cmd 0x06 0))) ∧
    (opIs 0x11 b = true →
      x.Head b true false false [(8, 1), (16, 4), (24, 8)] (natAt b 8 1 ≤ 1 && 4096 ≤ hostLen b && addrOk b) →
      let es := snapshotOffs.flatMap fun o => le 4 o ++ le 4 (x.view (s.ctx d) o).toNat
      let bytes := le 8 x.ns ++ le 2 snapshotOffs.length ++ le 1 (natAt b 8 1) ++ List.replicate 5 0 ++ es
      Sends s (.statusSnapshot d) d (hostAddr b) bytes ∧
      (natAt b 8 1 = 0 → Completes s (.statusSnapshot d) d 0 bytes.length x) ∧
      (natAt b 8 1 = 1 → Ends s (.statusSnapshot d) d fun z =>
        ∀ o ∈ snapshotOffs, isReport o = false → z.reg o = x.reg o &&& ~~~(BitVec.ofNat 32 (rcBits o))))

end Sys2Proof

/-- O30: both parts, `HeadsAreRefused` and `RingCommandsRun`, for every state. Readings of the model that it rests on,
not rules of the spec: log entries 29, 39, 49. -/
def Obligations.RingHeadsExecuteOrRefuse : Prop := HeadsAreRefused ∧ RingCommandsRun

/-- O31 (R65, R82, R150, R151, R154, R186, R321, R336, R373): orders and settings from the host. SET_FIELD of MODE 0 obeys ownership, and
BLANK keeps both parties' orders; MODE 1 of an RWS field after the seal completes with SEALED, of a GCLK request out of range with
BAD_ARG; MODE 2 sets the keeper's counter and nothing else of the module; SILLAGE_ENTER and SILLAGE_EXIT set the host's order;
BLOTTER_ARM sets what applies from the next frame start. Readings of the model that it rests on, not rules of the spec:
log entries 29, 37, 41, 47. -/
def Obligations.HostOrdersApply : Prop :=
  ∀ (s : State) (d : DieId) (b : List Byte), s.Up d →
    let x := s.at d
    let f := natAt b 9 1
    let v := natAt b 12 4
    let k := natAt b 8 1
    (opIs 0x04 b = true → x.Head b false false false [(8, 2), (12, 4)] (natAt b 8 1 == 0 && fieldOk f v) →
      (x.owner f = 2 → Completes s (.setField d) d 0x02 0 x) ∧
      (x.owner f ≠ 2 → f ≠ 4 → f ≠ 7 → f ≠ 8 ∨ x.wear.pass = false → Completes s (.setField d) d 0 0 (FieldSet x f v)) ∧
      (f = 4 → Completes s (.setField d) d (if v = 0 ∧ x.acd.wallBlank = true then 0x01 else 0) 0
        { x with acd := { x.acd with hostBlank := v != 0 } })) ∧
    (opIs 0x04 b = true → natAt b 8 1 = 1 →
      x.Head b false false false [(8, 1), (12, 12)] (natAt b 16 4 % 4 == 0 && natAt b 16 4 < 0x8000) →
      let off := natAt b 16 4
      let mask := BitVec.ofNat 32 (natAt b 20 4)
      (x.sealedBits off mask = true → Completes s (.setFieldRegister d) d 0x08 0 x) ∧
      (off = 0x0408 → natAt b 20 4 = 0xFFFFFFFF → v % 2 ^ 24 < 0x033334 ∨ 0x666666 < v % 2 ^ 24 →
        Completes s (.setFieldRegister d) d 0x04 0 x) ∧
      (off = 0x1008 → natAt b 20 4 = 0xFFFFFFFF → x.sealedBits off mask = false →
        Completes s (.setFieldRegister d) d 0 0 (x.store off (BitVec.ofNat 32 v)))) ∧
    (opIs 0x04 b = true → natAt b 8 1 = 2 → x.Head b false false false [(8, 1), (24, 6)] true →
      ∃ t, exec (.rtcSet d) s = .next t ∧ t.mod = { s.mod with rtc := BitVec.ofNat 48 (natAt b 24 6) } ∧
        t.pending = s.pending ∧ t.die d.other = s.die d.other ∧ (t.die d).core = x.core ∧
        x.completionOut x.headCmd 0 0 ∈ (t.die d).out) ∧
    (opIs 0x08 b = true → x.Head b false false false [(8, 1)] (natAt b 8 1 ≤ 1) →
      x.power = .active ∨ x.power = .relay → x.on F.scanOwn = true ∨ x.power = .relay →
      Ends s (.sillageEnter d) d fun z => z.acd.hostSil = true ∧ z.on F.silHost = true ∧
        z.on F.silHostDeep = (natAt b 8 1 == 1) ∧ z.power = x.power) ∧
    (opIs 0x09 b = true → x.Head b true false false [] true → x.power = .active ∨ x.power = .relay →
      Ends s (.sillageExit d) d fun z => z.acd.hostSil = false ∧ z.on F.silHost = false ∧
        (x.on F.refclkOk = true → z.on F.silRefclk = false) ∧ (x.get F.stiState = 2 → z.on F.silStitch = false)) ∧
    (opIs 0x0A b = true → (natAt b 10 1).testBit 1 = false →
      x.Head b false true true (blotterUsed b) (k < 16 && natAt b 9 1 ≤ 2 && natAt b 10 1 < 4 && x.rectFits (rectOf b)) →
      Completes s (.blotterArm d) d 0 0 (x.setRect k { x.rect k with next := some (some (rectOf b)) })) ∧
    (opIs 0x0A b = true → (natAt b 10 1).testBit 1 = true →
      x.Head b false true true (blotterUsed b) (k < 16 && natAt b 10 1 < 4) →
      Completes s (.blotterDisarm d) d 0 0 (x.setRect k { x.rect k with next := some none }))

namespace Sys2Proof

/-- (R186, R187, R193, R264, R278, R286, R320, R360, R363): the TABLE, STORE, WEAR and PANEL engines each take the head of the
ring while they are free: the command is their job, and what it takes from the host is read. Map entries are not loaded while
LDB is enabled, a load abandons a pass only in the bank that the pass builds, and DEFECT_SCAN needs the scan: it asks every IC of
every enabled lane. -/
def EnginesTakeOnDie : Prop :=
  ∀ (s : State) (d : DieId) (b : List Byte), s.Up d →
    let x := s.at d
    let j := jobOf x.headCmd b
    let id := natAt b 8 1
    (opIs 0x05 b = true → x.hif.table = none →
      x.Head b false true (x.bankActive id (natAt b 9 1)) [(8, 2), (12, 8), (24, 8)] (tableOk b) →
      (id = 7 → x.on F.ldbEn = true → Completes s (.tableLoad d) d 0x05 0 x) ∧
      (id ≠ 7 ∨ x.on F.ldbEn = false →
        Asks s (.tableLoad d) d (hostAddr b) (hostLen b) ∧
        (id ≠ 2 ∨ x.wear.pass = false ∨ natAt b 9 1 = x.inuse →
          Does s (.tableLoad d) d { x with hif := { x.hif with table := some j } }) ∧
        (id = 2 → x.wear.pass = true → natAt b 9 1 ≠ x.inuse →
          Does s (.tableLoad d) d ({ x with
            hif := { x.hif with table := some j }, wear := { x.wear with pass := false } }.flag F.building x.wear.build)))) ∧
    (opIs 0x06 b = true → x.hif.table = none → x.Head b false true false [(8, 2), (12, 8), (24, 8)] (tableOk b) →
      Does s (.tableRead d) d { x with hif := { x.hif with table := some j } }) ∧
    (opIs 0x0B b = true → x.on F.cstReady = true → x.hif.store = none →
      x.Head b false false false [(12, 8), (24, 8)]
        (storeLenOk b && storeWritable (natAt b 12 4) (hostLen b) && addrOk b) →
      Does s (.storeWrite d) d { x with hif := { x.hif with store := some j } } ∧
      Asks s (.storeWrite d) d (hostAddr b) (hostLen b)) ∧
    (opIs 0x0C b = true → x.on F.cstReady = true → x.hif.store = none →
      x.Head b false false false [(12, 8), (24, 8)]
        (storeLenOk b && natAt b 12 4 + hostLen b ≤ 4096 * flashBlock && addrOk b) →
      (x.cst.op.erasing = false ∨ x.cst.suspended = true →
        Does s (.storeRead d) d { x with hif := { x.hif with store := some j } }) ∧
      (x.cst.op.erasing = true → x.cst.suspended = false →
        Does s (.storeRead d) d (({ x with
          hif := { x.hif with store := some j }, cst := { x.cst with suspended := true } }.flag F.cstSuspended true).bump
            F.cstSuspends))) ∧
    (opIs 0x0D b = true → x.on F.cstReady = true → x.hif.store = none →
      x.Head b false false false [(12, 6)]
        (natAt b 12 4 % flashBlock == 0 && 1 ≤ natAt b 16 2 && natAt b 16 2 ≤ 4096 &&
          storeWritable (natAt b 12 4) (natAt b 16 2 * flashBlock)) →
      let op : StoreOp := .erase (natAt b 12 4 / flashBlock) (natAt b 16 2 - 1)
      (x.cst.op = .idle → Ends s (.storeErase d) d fun z =>
        z.hif.store = some j ∧ z.cst.op = op ∧ z.on F.cstBusy = true) ∧
      (x.cst.op ≠ .idle → Does s (.storeErase d) d
        { x with hif := { x.hif with store := some j }, cst := { x.cst with queued := some op } })) ∧
    (opIs 0x0E b = true → x.hif.wear = none →
      x.Head b false true false [(16, 4), (24, 8)] (32 + 18 * x.width * x.height ≤ hostLen b && addrOk b) →
      Does s (.wearExport d) d { x with hif := { x.hif with wear := some j } }) ∧
    (opIs 0x0F b = true → x.hif.wear = none → x.Head b false true false [(16, 4), (24, 8)] (addrOk b) →
      Does s (.wearImport d) d { x with hif := { x.hif with wear := some j } } ∧
      Asks s (.wearImport d) d (hostAddr b) (hostLen b)) ∧
    (opIs 0x15 b = true → x.hif.panel = none → x.wear.reading = none →
      x.Head b false false false [(12, 4), (24, 8)] (addrOk b) →
      Does s (.panelIdRead d) d ({ x with hif := { x.hif with panel := some j } }.flag F.pidBusy true) ∧
      Emits s (.panelIdRead d) d (.pidRead (x.get F.pidAddr) (x.on F.pidFast) (natAt b 14 2) (natAt b 12 2))) ∧
    (∀ c, (c = .defectScan d ∧ id = 0) ∨ (c = .defectScanInsert d ∧ id = 1) → opIs 0x16 b = true → x.hif.panel = none →
      x.Head b false true true [(8, 1), (16, 4), (24, 8)] (addrOk b) →
      (x.on F.scanOwn = false → Completes s c d 0x05 0 x) ∧
      (x.on F.scanOwn = true → Ends s c d fun z =>
        z.hif.panel = some j ∧ z.ldb.flags = [] ∧ z.ldb.unknown = false ∧
        ∀ l ∈ x.ldbLaneList, ∀ i < x.ics, (l, i) ∈ z.ldb.scan ∨ z.echo (l / 8) = some ⟨l, i, false⟩))

/-- (R102, R104, R123, R149, R186, R187, R344, R350): the commands for the lanes, the trim engine and the wall chain. TRIM_RUN
holds the scan for DESKEW and THRESH and runs its kinds in the order THRESH, DESKEW, RXOFF, IREF; LANE_SERVICE takes its lane
out of traffic into SERVICE once all four are ACTIVE; EYE_SCAN notes when it began; ACCORD_SEND numbers its parcel and queues it
out of both ports. -/
def LinksTakeCommands : Prop :=
  ∀ (s : State) (d : DieId) (b : List Byte), s.Up d →
    let x := s.at d
    let j := jobOf x.headCmd b
    let m := natAt b 8 1
    (opIs 0x07 b = true → x.hif.trim = none → x.Head b false true false [(8, 1), (12, 2)] (trimArgsOk b) →
      (m % 4 ≠ 0 → x.on F.scanOwn = false → Completes s (.trimRun d) d 0x05 0 x) ∧
      (m % 4 = 0 ∨ x.on F.scanOwn = true →
        (x.trim.todo ≠ [] → Does s (.trimRun d) d { x with hif := { x.hif with trim := some j } }) ∧
        (x.trim.todo = [] → x.trimDue = 0 → Ends s (.trimRun d) d fun z =>
          z.hif.trim = some j ∧ z.trim.auto = false ∧ z.trim.ran = 0 ∧ z.trim.code = natAt b 12 2 ∧
          z.trim.todo = [1, 0, 2, 3].filter (fun k => m.testBit k) ∧ ∀ k, z.trim.todo.head? = some k → z.get (trimKind k) = 3))) ∧
    (opIs 0x12 b = true → x.hif.service = none →
      x.Head b false true false [(8, 3), (12, 4)]
        (m < 4 && 1 ≤ natAt b 9 1 && natAt b 9 1 ≤ 3 && natAt b 10 1 ≤ 1) →
      (x.lanesActive = false → Completes s (.laneService d) d 0x05 0 x) ∧
      (x.lanesActive = true → Ends s (.laneService d) d fun z =>
        z.hif.service = some j ∧
        ∀ k : Lane, (k.val = m → z.laneSt k = 7 ∧ (z.get F.traffic).testBit m = false ∧
            (z.lane k).serviceReq = some (natAt b 9 1, natAt b 10 1 == 1)) ∧
          (k.val ≠ m → z.laneSt k = 6 ∧ z.lane k = x.lane k ∧ (z.get F.traffic).testBit k = (x.get F.traffic).testBit k))) ∧
    (opIs 0x13 b = true → x.hif.scan = none →
      x.Head b false (m != 0) false [(8, 4), (16, 4), (24, 8)]
        (m < 4 && 1 ≤ natAt b 9 1 && 1 ≤ natAt b 10 1 && 16 ≤ natAt b 11 1 && natAt b 11 1 ≤ 34 &&
          eyeBytes (natAt b 9 1) (natAt b 10 1) ≤ hostLen b && addrOk b) →
      Does s (.eyeScan d) d { x with hif := { x.hif with scan := some j, scanTime := x.ns } }) ∧
    (opIs 0x10 b = true → x.sends < 16 →
      x.Head b false true false [(8, 3), (12, 2), (16, natAt b 12 2)]
        ((m ≤ 0xF0 || 0xFE ≤ m) && natAt b 9 1 ≤ 2 && natAt b 10 1 ≤ 1 && 8 ≤ natAt b 12 2 && natAt b 12 2 ≤ 44) →
      Ends s (.accordSend d) d fun z => ∃ o : Outstanding,
        z.pcl.outstanding = x.pcl.outstanding ++ [o] ∧ z.pcl.locQ = x.pcl.locQ ++ [⟨o.bytes, o.auth⟩] ∧
        o.cmd = some x.headCmd ∧ o.dst.toNat = m ∧ o.seq = (look x.pcl.seqs m).getD 0 ∧
        o.auth = ((natAt b 10 1).testBit 0 || x.on F.authSign) ∧ o.bytes.drop 15 = bytesAt b 16 (natAt b 12 2) ∧
        look z.pcl.seqs m = some (o.seq + 1))

end Sys2Proof

/-- O32: both parts, `EnginesTakeOnDie` and `LinksTakeCommands`, for every state. Readings of the model that it rests on,
not rules of the spec: log entries 29, 38, 39. -/
def Obligations.EnginesTakeCommands : Prop := EnginesTakeOnDie ∧ LinksTakeCommands

namespace Sys2Proof

/-- A completion can be written now. -/
def CanComplete (x : Die) : Prop := x.hif.held = [] ∧ x.cmpSpace = true ∧ x.hif.logging = false ∧ x.hif.d3hot = false

/-- The engine ends its command with `st` and `det`, leaving the die as `y`. -/
def Answers (s : State) (c : Instr) (d : DieId) (j : Job) (st det : Nat) (y : Die) : Prop :=
  Does s c d y ∧ Emits s c d ((s.at d).completionOut j.cmd st det)

end Sys2Proof

/-- O33 (R104, R186, R190, R194, R219, R264, R286, R320, R360, R386): what the engines answer, while a completion can be written and
the host has not failed; a failed read of the host ends with HOST_ABORT and its event. A load lands in its bank; reads of a
table, of the store and of the panel's memory go to the host as they are, but for store bytes that an operation under way erases
or programs (the model's choice, assumption 32); a program starts on erased bytes only; an import whose
key is another panel's, or which has no header, fails and changes nothing; an eye scan writes its header and counts. An engine
without a command does nothing. Readings of the model that it rests on, not rules of the spec: log entries 38, 39, 40,
46. -/
def Obligations.EnginesAnswer : Prop :=
  ∀ (s : State) (d : DieId) (j : Job) (io : EngineIo), s.Up d → j.live = true → CanComplete (s.at d) →
    let x := s.at d
    let a := natAt j.args 16 8
    let n := natAt j.args 8 4
    let off := natAt j.args 4 4
    let id := natAt j.args 0 1
    let tbl : Instr := .engineDone d .table io
    let sto : Instr := .engineDone d .store io
    let wea : Instr := .engineDone d .wear io
    let pan : Instr := .engineDone d .panel io
    let free : Die := { x with hif := { x.hif with table := none } }
    (x.hif.table = none → Does s tbl d x) ∧ (x.hif.store = none → Does s sto d x) ∧ (x.hif.wear = none → Does s wea d x) ∧
    (x.hif.panel = none → Does s pan d x) ∧
    (∀ e, e = Engine.trim ∨ e = .service ∨ e = .scan → Does s (.engineDone d e io) d x) ∧
    (x.hif.table = some j → j.cmd.opcode = 0x05 →
      let bs := io.data.take n
      (io.hostAbort = none → id = 3 →
        Answers s tbl d j 0 0 { free with wear := { x.wear with curves := splice x.wear.curves off bs } }) ∧
      (io.hostAbort = none → id ≠ 3 → id ≠ 2 → x.permits 7 true (tableAt id (natAt j.args 1 1) + off) bs.length 1 = true →
        let t := tableAt id (natAt j.args 1 1) + off
        Answers s tbl d j 0 0
          ((free.poke true t bs).traffic true (partWords t bs.length) (wordCount t bs.length))) ∧
      (∀ m, io.hostAbort = some m → id = 3 →
        Answers s tbl d j 0x0A 0
          { free with wear := { x.wear with curves := splice x.wear.curves off (io.data.take (min m n)) } } ∧
        Raises s tbl d 0x53 (a + m))) ∧
    (x.hif.table = some j → j.cmd.opcode = 0x06 → io.hostAbort = none →
      (id = 3 →
        Answers s tbl d j 0 (bytesAt x.wear.curves off n).length free ∧
        Sends s tbl d a (bytesAt x.wear.curves off n)) ∧
      (id ≠ 3 →
        let t := tableAt id (natAt j.args 1 1) + off
        x.permits 7 true t n 0 = true → x.ueWords t n io.ue.toList = [] → wordsIn io.ce (t, n) = [] →
        Answers s tbl d j 0 n (free.traffic true (wordCount t n) 0) ∧ Sends s tbl d a (x.peek true t n))) ∧
    (x.hif.store = some j → j.cmd.opcode = 0x0B → io.hostAbort = none → x.programAsked = false → x.cst.op = .idle →
      let bs := io.data.take n
      bs ≠ [] →
      ((x.flashRead off bs.length).all (· == 0xFF) = true → Does s sto d
        ({ x with cst := { x.cst with op := .program off bs false } }.flag F.cstBusy true)) ∧
      ((x.flashRead off bs.length).all (· == 0xFF) = false → Answers s sto d j 0x07 0
        ({ x with hif := { x.hif with store := none } }.flag F.cstBusy false))) ∧
    (x.hif.store = some j → j.cmd.opcode = 0x0C → io.hostAbort = none →
      let seen := { x with hif := { x.hif with store := none } }.flashSeen off n
      Answers s sto d j 0 n seen.2 ∧ Sends s sto d a seen.1 ∧
      (x.cst.op = .idle → seen.1 = x.flashRead off n)) ∧
    (x.hif.wear = some j → j.cmd.opcode = 0x0F → io.hostAbort = none →
      let h := io.data.take n
      (n < 32 → Answers s wea d j 0x07 2 { x with hif := { x.hif with wear := none } }) ∧
      (32 ≤ n → x.wear.key ≠ some (h.take 16) → Answers s wea d j 0x07 1 { x with hif := { x.hif with wear := none } })) ∧
    (x.hif.wear = some j → j.cmd.opcode = 0x0E → io.hostAbort = none →
      let t := 18 * x.width * x.height
      ∀ key, x.wear.key = some key → key.length = 16 → x.permits 7 true 0x0E000000 t 0 = true →
        x.ueWords 0x0E000000 t io.ue.toList = [] → wordsIn io.ce (0x0E000000, t) = [] →
        Answers s wea d j 0 (32 + t)
          ({ x with hif := { x.hif with wear := none } }.traffic true (wordCount 0x0E000000 t) 0) ∧
        Sends s wea d a (key ++ le 2 0 ++ le 2 x.height ++ le 6 s.mod.rtc.toNat ++ List.replicate 6 0 ++
          x.peek true 0x0E000000 t)) ∧
    (x.hif.panel = some j → j.cmd.opcode = 0x15 → io.hostAbort = none → x.wear.reading = none →
      let len := natAt j.args 4 2
      let y := { x with hif := { x.hif with panel := none } }.flag F.pidBusy false
      (io.busFail = none → len ≤ io.data.length → Answers s pan d j 0 len y ∧ Sends s pan d a (io.data.take len)) ∧
      (io.busFail = none → io.data.length < len → Does s pan d x) ∧
      (∀ m, io.busFail = some m → m < len → m ≤ io.data.length →
        Answers s pan d j 0x07 m y ∧ Sends s pan d a (io.data.take m) ∧ Raises s pan d 0xA5 (natAt j.args 6 2 + m))) ∧
    (x.hif.panel = some j → j.cmd.opcode = 0x16 → x.scanOpen = true → Does s pan d x) ∧
    (∀ (o : Outstanding) (k : Cmd), x.pcl.outstanding = [o] → o.dst = 0xFF → o.cmd = some k →
      ((x.pcl.locQ.map (·.bytes)).contains o.bytes = true → Does s (.engineDone d .accord io) d x) ∧
      ((x.pcl.locQ.map (·.bytes)).contains o.bytes = false →
        Does s (.engineDone d .accord io) d { x with pcl := { x.pcl with outstanding := [] } } ∧
        Emits s (.engineDone d .accord io) d (x.completionOut k 0 o.detail))) ∧
    (∀ counts, x.hif.scan = some j → 4 ≤ j.args.length →
      let sp := natAt j.args 1 1
      let sv := natAt j.args 2 1
      let bytes := bytesAt j.args 0 4 ++ le 2 (eyeColumns sp) ++ le 2 (eyeRows sv) ++ le 8 x.hif.scanTime ++
        (counts.take (eyeRows sv * eyeColumns sp)).flatMap fun c => le 2 c.toNat
      let ended : Die := { x with hif := { x.hif with scan := none } }
      Answers s (.eyeScanDone d counts none) d j 0 bytes.length ended ∧
      Sends s (.eyeScanDone d counts none) d a bytes ∧
      Raises s (.eyeScanDone d counts none) d 0x2C (id % 4) ∧
      (∀ m < bytes.length,
        Answers s (.eyeScanDone d counts (some m)) d j 0x0A m ended ∧
        Sends s (.eyeScanDone d counts (some m)) d a (bytes.take m)))

namespace Sys2Proof

/-- A count that saturates is one higher (R4). -/
def More (x z : Die) (f : F) : Prop := z.get f = min (x.get f + 1) (2 ^ f.width - 1)

end Sys2Proof

/-- O34 (R202, R208): DMA_ARM. ARM takes an IDLE channel to its first descriptor and is BUSY on any other; STOP ends an armed channel
at once and a running one after its unit; ABORT ends a channel with accesses outstanding once these are done, with its
descriptor written back and reported as aborted and DETAIL the bytes moved. Readings of the model that it rests on, not
rules of the spec: log entries 45. -/
def Obligations.ChannelsAreArmed : Prop :=
  ∀ (s : State) (d : DieId) (b : List Byte), s.Up d →
    let x := s.at d
    let m := natAt b 8 1
    let k := chanOf b
    let o := natAt b 12 4
    let a := natAt b 24 8
    let calm := x.flag (F.chPending k.val) false
    let used : List (Nat × Nat) := [(8, 2), (12, 4), (24, 8)]
    opIs 0x14 b = true →
    (natAt b 9 1 = 1 →
      x.Head b false false false used
        (m < 16 && a % 32 == 0 && o / 2 ^ 13 == 0 && bits o 8 5 != 16 + m && !(o.testBit 4 && o.testBit 0)) →
      (x.chState k = 0 → Completes s (.dmaArm d) d 0 0
        ((((x.setChan k { Channel.reset with options := BitVec.ofNat 32 o, first := a, addr := a }).put (F.chDesc k.val) a).put
          (F.chRingIdx k.val) 0).put (F.chState k.val) 1)) ∧
      (x.chState k ≠ 0 → Completes s (.dmaArm d) d 0x05 0 x)) ∧
    (natAt b 9 1 = 2 → x.Head b false false false used (m < 16) →
      (x.chState k = 1 → Ends s (.dmaStop d) d fun z => z.chState k = 0 ∧ z.mem = x.mem ∧ ∀ i, i ≠ k → z.chan i = x.chan i) ∧
      (x.chState k = 2 → Completes s (.dmaStop d) d 0 0 (calm.put (F.chState k.val) 3)) ∧
      (x.chState k = 0 ∨ x.chState k = 3 ∨ x.chState k = 4 → Completes s (.dmaStop d) d 0 0 calm)) ∧
    (natAt b 9 1 = 3 → x.Head b false false false used (m < 16) →
      (x.chState k = 0 → Completes s (.dmaAbort d) d 0 0 calm) ∧
      (x.chState k = 1 → Ends s (.dmaAbort d) d fun z => z.chState k = 0 ∧ z.mem = x.mem ∧ ∀ i, i ≠ k → z.chan i = x.chan i) ∧
      (x.chState k = 2 ∨ x.chState k = 3 ∨ x.chState k = 4 → Does s (.dmaAbort d) d
        ((calm.setChan k { x.chan k with abort := some x.headCmd }).put (F.chState k.val) 4)))

namespace Sys2Proof

/-- (R196, R202, R208, R212): an ABORT ends once the accesses of its channel are done, which those to the host are not in D3hot. -/
def AbortsEnd : Prop :=
  ∀ (s : State) (d : DieId) (k : Chan) (left : Nat) (io : DmaIo) (cmd : Cmd), s.Up d → CanComplete (s.at d) →
    let x := s.at d
    let c := x.chan k
    let i : Instr := .dmaAbortDone d k ⟨left, io⟩
    (x.chState k ≠ 4 ∨ x.dmaPaused k = true → Does s i d x) ∧
    (x.chState k = 4 → x.dmaPaused k = false → c.abort = some cmd →
      (c.desc = none → Ends s i d (fun z => z.chState k = 0 ∧ z.mem = x.mem) ∧ Emits s i d (x.completionOut cmd 0 0)) ∧
      (∀ b, c.desc = some b → c.settling = true → c.descScratch = false →
        Ends s i d (fun z => z.chState k = 0 ∧ z.get (F.chLastErr k.val) = 8 ∧ z.mem = x.mem) ∧
        Emits s i d (x.completionOut cmd 0 (min (max left (c.half.getD 0)) (dLen b))) ∧
        Raises s i d 0x60 (x.dmaDetail k 8)))

end Sys2Proof

/-- O35 (R200, R201, R203–R206, R208): triggers and descriptors. A trigger starts an armed channel's unit, waits once at a running
or stopping one, and is an overrun beyond that, and without one that a timer or a channel has sent nothing arrives; a free timer triggers every channel that names it; a descriptor that fails to arrive ends
its channel, a Ring descriptor without OWN runs nothing, a faulty one ends its channel with its error, and a good one runs, with its source read from the host.
Readings of the model that it rests on, not rules of the spec: log entries 11, 18, 45. -/
def Obligations.TriggersAndDescriptors : Prop :=
  ∀ (s : State) (d : DieId) (k : Chan), s.Up d →
    let x := s.at d
    let c := x.chan k
    let y := x.setChan k { c with due := c.due - 1 }
    (c.due = 0 → Does s (.dmaTrigger d k) d x) ∧
    (c.due ≠ 0 →
      (x.chState k = 0 ∨ x.chState k = 4 → Does s (.dmaTrigger d k) d y) ∧
      (x.chState k = 1 →
        Does s (.dmaTrigger d k) d ((x.setChan k { c with
          due := c.due - 1, fresh := true, passing := c.carry, carry := c.skips, skips := 0, fetching := true
          asked := !c.descScratch && !x.hif.d3hot, desc := none, half := none, settling := false }).put (F.chState k.val) 2) ∧
        (c.descScratch = false → x.hif.d3hot = false → Emits s (.dmaTrigger d k) d (.hostRead c.addr 32))) ∧
      (x.chState k = 2 ∨ x.chState k = 3 →
        (x.on (F.chPending k.val) = false → Does s (.dmaTrigger d k) d (y.flag (F.chPending k.val) true)) ∧
        (x.on (F.chPending k.val) = true →
          (c.lockstep = false → Does s (.dmaTrigger d k) d (y.bump (F.chOverrun k.val))) ∧
          (c.lockstep = true → Does s (.dmaTrigger d k) d
            (((y.bump (F.chOverrun k.val)).setChan k { c with due := c.due - 1, skips := c.skips + 1 }).bump
              (F.chSkip k.val)))))) ∧
    (∀ t : Fin 8, x.on (F.ftEnable t.val) = true →
      Ends s (.freeTimerFire d t) d fun z =>
        More x z (F.ftFires t.val) ∧ (z.on (F.ftEnable t.val) = !x.on (F.ftOneshot t.val)) ∧ z.mem = x.mem ∧
        ∀ i, z.chan i = if x.chState i ≠ 0 ∧ (x.chan i).trig = 8 + t.val then { x.chan i with due := (x.chan i).due + 1 }
          else x.chan i) ∧
    (∀ t : Fin 8, x.on (F.ftEnable t.val) = false → Does s (.freeTimerFire d t) d x) ∧
    (x.chState k ≠ 4 → c.fetching = true → c.descScratch = false → c.asked = true → x.hif.d3hot = false →
      (Ends s (.dmaDescFetchDone d k none) d (fun z => z.chState k = 0 ∧ z.mem = x.mem) ∧
        Raises s (.dmaDescFetchDone d k none) d 0x65 (x.dmaDetail k 0)) ∧
      ∀ b : List Byte, b.length = 32 →
        let i : Instr := .dmaDescFetchDone d k (some b)
        (c.ring = true → dOwn b = false → x.on (F.chPending k.val) = false → c.draining = false →
          (Ends s i d fun z => z.chState k = (if x.chState k = 3 then 0 else 1) ∧ More x z (F.chEmpty k.val) ∧
            z.on (F.chPending k.val) = false ∧ (z.chan k).desc = none ∧ (z.chan k).addr = c.addr) ∧
          (c.emptyRun = false → Raises s i d 0x62 (x.dmaDetail k 0))) ∧
        (c.ring = false ∨ dOwn b = true → ∀ e, e ≠ 0 → descCheck c b = e →
          Ends s i d (fun z => z.chState k = 0 ∧ z.get (F.chLastErr k.val) = e ∧ z.mem = x.mem) ∧
          Raises s i d 0x60 (x.dmaDetail k e)) ∧
        (c.ring = false ∨ dOwn b = true → descCheck c b = 0 → c.passing = 0 →
          Does s i d (x.setChan k { c with
            fetching := false, desc := some b, asked := dSrcTgt b == 0 && !c.settling
            dramSide := some (c.dramSide.getD false || dSrcTgt b == 1 || dDstTgt b == 1) }) ∧
          (dSrcTgt b = 0 → c.settling = false →
            Asks s i d (c.readRange b 0 (dLen b)).1 (c.readRange b 0 (dLen b)).2)))

/-- O36 (R176, R199, R200, R203, R207–R211, R218): a descriptor moves its bytes. From HOST to DRAM under a region that permits them,
every byte lands at its place and no other byte of memory changes, half of them by the half point: the bytes are on their way
until they land, in the order in which they left. From DRAM to HOST they go out as they stand. SETTLE waits for the
acknowledgement; and a descriptor that ends its chain ends the unit and the channel with its event. Readings of the model
that it rests on, not rules of the spec: log entries 18, 45. -/
def Obligations.DescriptorsMoveBytes : Prop :=
  ∀ (s : State) (d : DieId) (k : Chan) (b : List Byte) (io : DmaIo), s.Up d →
    let x := s.at d
    let c := x.chan k
    let moved (z : Die) (a : Nat) (bs : List Byte) : Prop :=
      let old := (x.landWhere fun _ => true).mem
      let new := (z.landWhere fun _ => true).mem
      Memory.readN 0 new.dram a bs.length = bs ∧ new.scratch = old.scratch ∧
        ∀ a', a' < a ∨ a + bs.length ≤ a' → Memory.read 0 new.dram a' = Memory.read 0 old.dram a'
    let n := (dLen b + 1) / 2
    let i := c.half.getD 0
    x.running k = some b → x.hif.d3hot = false → c.descScratch = false →
    (dSrcTgt b = 0 → dDstTgt b = 1 → io.hostAbort = false → 0 < dLen b →
      (c.halfDue b = true → io.data.length = n → x.permits 6 true (dDst b) n 1 = true →
        Ends s (.dmaHalfDone d k io) d fun z =>
          moved z (dDst b) io.data ∧ (z.chan k).half = some n ∧ z.chState k = x.chState k) ∧
      (c.halfDue b = false → io.data.length = dLen b - i → x.permits 6 true (dDst b + i) (dLen b - i) 1 = true →
        (dFlag b 5 = true → Ends s (.dmaDescDone d k io) d fun z =>
          moved z (dDst b + i) io.data ∧ (z.chan k).settling = true ∧ z.chState k = x.chState k) ∧
        (dFlag b 5 = false → dFlag b 4 = true →
          Ends s (.dmaDescDone d k io) d (fun z =>
            moved z (dDst b + i) io.data ∧ z.chState k = 0 ∧ More x z (F.chUnits k.val)) ∧
          Raises s (.dmaDescDone d k io) d 0x63 (x.dmaDetail k 0)))) ∧
    (dSrcTgt b = 1 → dDstTgt b = 0 → c.outward = false → io.hostAbort = false → c.halfDue b = false →
      x.permits 6 true (dSrc b + i) (dLen b - i) 0 = true → x.ueWords (dSrc b + i) (dLen b - i) io.ue = [] →
      Sends s (.dmaDescDone d k io) d (dDst b + i) (x.peek true (dSrc b + i) (dLen b - i)) (c.ro && x.hif.link.roEnable) ∧
      (Ends s (.dmaDescDone d k io) d fun z =>
        z.mem.dram = x.mem.dram ∧ z.mem.scratch = x.mem.scratch ∧ z.mem.unlanded = x.mem.unlanded) ∧
      (dFlag b 5 = true → Emits s (.dmaDescDone d k io) d (.hostRead (dDst b) 0)))

namespace Sys2Proof

/-- (R203, R208, R209, R211): once its writes are acknowledged, and have landed, a descriptor with SETTLE completes: at the end
of the chain the channel is IDLE with its event; at the end of a unit it is armed at the next descriptor; and one that has
failed ends its channel with its error. -/
def SettlesEnd : Prop :=
  ∀ (s : State) (d : DieId) (k : Chan) (b : List Byte), s.Up d →
    let x := s.at d
    let c := x.chan k
    let landed := (x.landWhere (·.chan == k)).mem
    c.settling = true → c.desc = some b → x.chState k = 2 → c.descScratch = false → c.resetDue = false → c.draining = false →
    x.hif.d3hot = false →
    (c.failed = none → dFlag b 4 = true →
      Ends s (.dmaSettleDone d k) d (fun z => z.chState k = 0 ∧ More x z (F.chUnits k.val) ∧ z.mem = landed) ∧
      Raises s (.dmaSettleDone d k) d 0x63 (x.dmaDetail k 0)) ∧
    (c.failed = none → dFlag b 4 = false → dFlag b 2 = true → c.ring = false → dNext b ≠ 0 → x.on (F.chPending k.val) = false →
      Ends s (.dmaSettleDone d k) d fun z =>
        z.chState k = 1 ∧ (z.chan k).addr = dNext b ∧ (z.chan k).desc = none ∧ More x z (F.chUnits k.val) ∧ z.mem = landed) ∧
    (∀ err done, c.failed = some (err, done) → err < 256 →
      Ends s (.dmaSettleDone d k) d (fun z => z.chState k = 0 ∧ z.get (F.chLastErr k.val) = err ∧ z.mem = landed) ∧
      Raises s (.dmaSettleDone d k) d 0x60 (x.dmaDetail k err))

end Sys2Proof

/-- O37: both parts, `AbortsEnd` and `SettlesEnd`, for every state. Readings of the model that it rests on, not rules of
the spec: log entries 9, 45. -/
def Obligations.ChannelsEndAsOrdered : Prop := AbortsEnd ∧ SettlesEnd

/-- O38 (R223–R225, R230, R231, R233, R299, R318): DRAM comes up with every byte 0, or reports its failure once; a scrub goes on from where
the last one ended, round all data words, and counts what it meets there: a word met as uncorrectable stays so, and one that holds an error already known is met again; CVU_SEL stores each field
unless its code is reserved or too wide for CVU-D, with its event, and nothing at all once sealed; a key that expires holds no
value; ODD_CFG keeps its depth while RUN is 1, for code 3, or where it would break a condition of R317, with its event, and stores its other fields. The master in a
scrubber's detail word is a free value (assumption 31), which nothing here fixes. Readings of the model that it rests on,
not rules of the spec: log entries 9, 31, 47. -/
def Obligations.MemoryAndChecksAreKept : Prop :=
  ∀ (s : State) (d : DieId), s.Up d →
    let x := s.at d
    (x.power = .booting → x.on F.initDone = false →
      Does s (.dramInitDone d) d ({ x with mem := { x.mem with dram := [], dramUe := [] } }.flag F.initDone true) ∧
      (x.mem.initFailed = false →
        Does s (.dramInitRetry d) d { x with mem := { x.mem with initFailed := true } } ∧
        Raises s (.dramInitRetry d) d 0x75 0) ∧
      (x.mem.initFailed = true → Does s (.dramInitRetry d) d x)) ∧
    (∀ upTo met, x.scrubs = false → Does s (.dramScrub d upTo met) d x) ∧
    (∀ upTo w, x.scrubs = true →
      let a := x.mem.scrubAt
      let z := min (upTo / 32 * 32) 0x70000000
      let on (y : Die) (fixed : Nat) : Die :=
        ({ y with free := x.free + 1, mem := { y.mem with scrubAt := z % 0x70000000 } }).traffic true
          ((if a < z then z - a else z + 0x70000000 - a) / 32) fixed
      (x.mem.dramUe = [] → x.scrubbed z w = false → Does s (.dramScrub d upTo ⟨[w], [w]⟩) d (on x 0)) ∧
      (x.mem.dramUe = [] → x.scrubbed z w = true →
        Does s (.dramScrub d upTo ⟨[w], []⟩) d (on (((x.bump F.ceCount).put F.errAddr (w / 32)).flag F.errUe false) 1)) ∧
      (x.mem.dramUe = [] ∨ x.mem.dramUe = [w] → x.scrubbed z w = true →
        Does s (.dramScrub d upTo ⟨[], [w]⟩) d
          (on { ((x.bump F.ueCount).put F.errAddr (w / 32)).flag F.errUe true with mem := { x.mem with dramUe := [w] } } 0) ∧
        Ends s (.dramScrub d upTo ⟨[], [w]⟩) d fun z => z.get F.evtCode = 0x72 ∧ z.get F.evtDetail / 64 = w / 32)) ∧
    (x.barOpen = true → ∀ v : Word,
      let bad (i : Nat) : Bool := 4 ≤ bits v.toNat (4 * i) 3 || (i == 2 && bits v.toNat (4 * i) 3 < 2)
      (x.on F.sealed = true → Does s (.cvuSelWrite d v) d x) ∧
      (x.on F.sealed = false →
        (Ends s (.cvuSelWrite d v) d fun z =>
          ∀ i < 6, cvuSel z i = if bad i then cvuSel x i else bits v.toNat (4 * i) 3) ∧
        (∀ i < 6, bad i = true → Raises s (.cvuSelWrite d v) d 0xF1 (0x3800 + 65536 * (v.toNat % 65536))))) ∧
    (∀ key, Ends s (.aliveKeyExpire d key) d fun z => look z.pcl.rxAlive key = none ∧
      ∀ k, k ≠ key → look z.pcl.rxAlive k = look x.pcl.rxAlive k) ∧
    (x.barOpen = true → ∀ v : Word,
      let depth := bits v.toNat 4 2
      let refused := depth = 3 ∨ (x.on F.run = true ∧ depth ≠ x.get F.depth) ∨ x.breaksLdb (x.put F.depth depth) = true
      (Ends s (.oddCfgWrite d v) d fun z =>
        (z.on F.odEn = v.getLsbD 0) ∧ (z.on F.dithEn = v.getLsbD 1) ∧ (z.on F.temporal = v.getLsbD 2) ∧
        (refused → z.get F.depth = x.get F.depth) ∧ (¬ refused → z.get F.depth = depth)) ∧
      (refused → Raises s (.oddCfgWrite d v) d 0x99 (0x5800 + 65536 * (v.toNat % 65536))))

/-- O39 (R229): the check value of each algorithm over the nine ASCII bytes "123456789". -/
def Obligations.CheckValuesAsTabled : Prop :=
  let nine : List Byte := [0x31, 0x32, 0x33, 0x34, 0x35, 0x36, 0x37, 0x38, 0x39]
  cvu 0 nine = 0xE3069283 ∧ cvu 1 nine = 0xCBF43926 ∧ cvu 2 nine = 0x29B1 ∧ cvu 3 nine = 0xDF

/-- O40 (R4, R235–R237, R245, R249, R262, R284, R318, R340, R387): RUN is stored only with a raster in range; raster and mode are stored under
their conditions, where they break none of the enabled driver bus's (R318), with the line period following, and a refused write leaves its event; a write that changes nothing is none; TE
is measured, restored after four agreeing periods, and lost; the latch and the freeze are cleared by their bits. Readings
of the model that it rests on, not rules of the spec: log entries 27, 30. -/
def Obligations.RasterSettings : Prop :=
  ∀ (s : State) (d : DieId), s.Up d → (s.at d).barOpen = true →
    let x := s.at d
    let refused (off : Nat) (v : Word) : Nat := off + 65536 * (v.toNat % 65536)
    (x.on F.run = true → Does s (.runSet d) d x) ∧
    (x.on F.run = false → rasterOk x.width x.height (x.get F.vTotal) (x.get F.modeId) = false →
      Does s (.runSet d) d x ∧ Raises s (.runSet d) d 0x87 (refused 0x4000 1)) ∧
    (x.on F.run = false → rasterOk x.width x.height (x.get F.vTotal) (x.get F.modeId) = true →
      Ends s (.runSet d) d fun z =>
        z.on F.run = true ∧ z.on F.tmgRunning = true ∧ z.on F.echoValid = false ∧ z.tmg.due = none ∧ z.tmg.lastStart = none ∧
        (x.on F.runSeen = false ∨ x.on F.recordOk = false → x.wear.reading = none →
          z.wear.reading = some 0 ∧ Out.pidRead (x.get F.pidAddr) (x.on F.pidFast) 0 256 ∈ z.out)) ∧
    Does s (.runClear d) d { ((x.flag F.run false).flag F.tmgRunning false).flag F.tmgWaiting false with
      tmg := { x.tmg with due := none } } ∧
    (∀ (off : BitVec 16) (v : Word), off = 0x4004 ∨ off = 0x400C →
      (x.keeps off.toNat v = true → Does s (.tmgRasterWrite d off v) d x) ∧
      let broken := x.breaksLdb (x.store off.toNat v).updRaster
      (x.keeps off.toNat v = false → x.on F.run = true ∨ broken = true →
        Does s (.tmgRasterWrite d off v) d x ∧ Raises s (.tmgRasterWrite d off v) d 0x87 (refused off.toNat v)) ∧
      (x.keeps off.toNat v = false → x.on F.run = false → broken = false → Ends s (.tmgRasterWrite d off v) d fun z =>
        (off = 0x4004 → z.get F.halfW = bits v.toNat 0 11 ∧ z.get F.halfH = bits v.toNat 16 12 ∧ z.get F.vTotal = x.get F.vTotal) ∧
        (off = 0x400C → z.get F.vTotal = bits v.toNat 0 13 ∧ z.get F.halfW = x.get F.halfW ∧ z.get F.halfH = x.get F.halfH) ∧
        z.get F.lineCclk = lineCclkOf x.rateMin (z.get F.vTotal) % 2 ^ 24 ∧ z.tmg = x.tmg)) ∧
    (∀ v : Word,
      (x.keeps 0x4008 v = true → Does s (.tmgModeWrite d v) d x) ∧
      let broken := x.breaksLdb (x.store 0x4008 v).updRaster
      (x.keeps 0x4008 v = false → x.modeBad v = true ∨ broken = true →
        Does s (.tmgModeWrite d v) d x ∧ Raises s (.tmgModeWrite d v) d 0x87 (refused 0x4008 v)) ∧
      (x.keeps 0x4008 v = false → x.modeBad v = false → broken = false → Ends s (.tmgModeWrite d v) d fun z =>
        z.get F.modeId = bits v.toNat 16 5 ∧ z.get F.slowId = bits v.toNat 0 5 ∧ z.on F.variable = v.getLsbD 8 ∧
        (x.on F.run = true → z.get F.lineCclk = x.get F.lineCclk) ∧
        (x.on F.run = false → z.get F.lineCclk = lineCclkOf z.rateMin (x.get F.vTotal) % 2 ^ 24))) ∧
    (∀ t, x.tmg.teLast = some t → x.takeover ≠ .resumed → t ≤ x.cclk → x.cclk - t < 2 ^ 24 →
      let p := x.cclk - t
      (x.on F.teOk = true → Does s (.teEdge d) d { x.put F.tePeriod p with
        tmg := { x.tmg with teLast := some x.cclk, tePeriods := (p :: x.tmg.tePeriods).take 4 } }) ∧
      (x.on F.teOk = false → x.tmg.tePeriods = [p, p, p] → Ends s (.teEdge d) d (fun z =>
          z.on F.teOk = true ∧ z.get F.tePeriod = p) ∧ Raises s (.teEdge d) d 0x85 p) ∧
      (x.on F.teOk = false → x.tmg.tePeriods.length < 3 → Ends s (.teEdge d) d fun z => z.on F.teOk = false)) ∧
    (x.on F.teOk = true →
      Does s (.teLost d) d { ((x.flag F.teOk false).put F.tePeriod 0).bump F.tmgTeLost with
        tmg := { x.tmg with teLast := none, tePeriods := [] } } ∧
      Raises s (.teLost d) d 0x84 0) ∧
    (∀ top : Bool, Ends s (.layerLatchClear d top) d fun z =>
      z.on (if top then F.tLatch else F.hLatch) = false ∧
        z.on (if top then F.hLatch else F.tLatch) = x.on (if top then F.hLatch else F.tLatch)) ∧
    Does s (.blotterFrozenClear d) d { x.flag F.bltFrozen false with bltSetters := [] }

/-- O41 (R141, R174, R241, R242, R245, R248): a nominal start selects by the one deadline the die holds: in fixed mode the frame that is eligible
at the lattice point, in variable mode the excess, deadline and repeat cases from N, in 1/18 ns. At a start without the stitch
the selected frame, settled, replaces the displayed one at a JOINED die; freeze, or no frame, or no JOINED die, repeats it.
Readings of the model that it rests on, not rules of the spec: log entries 23, 27, 48, 55. -/
def Obligations.FramesStart : Prop :=
  ∀ (s : State) (d : DieId) (f p : Nat), s.Up d →
    let x := s.at d
    let no := x.framesRun = false ∧ (x.on F.run = false ∨ x.power ≠ .relay)
    let last (n : Nat) : Nat := n + x.repeatAfter
    let bound (n : Nat) : Nat := n + x.tMin - 45
    (no → Does s (.nominalStart d) d x) ∧
    (x.framesRun = false → Does s (.frameStart d) d x) ∧
    (x.framesRun = true → x.stitchUp = false → x.get F.join = 4 → (∃ q, x.acd.deadlines = [⟨f, p, q⟩]) →
      (∀ l, x.tmg.lastFrame = some l → l < f) →
      let due (o : Nominal) : Prop :=
        Ends s (.nominalStart d) d fun z => z.tmg.due = some o ∧ z.tmg.lastNominal = some o.time ∧ z.tmg.display = x.tmg.display
      (x.on F.variable = false → due ⟨x.fixedPoint, if 18 * p ≤ x.fixedPoint then some f else none, false⟩) ∧
      (∀ n, x.on F.variable = true → x.tmg.lastNominal = some n →
        (18 * p ≤ bound n →
          let t := min (18 * lattice x.rateMin (latticeIndex x.rateMin ((bound n + 17) / 18))) (last n)
          due ⟨t, if 18 * p ≤ t then some f else none, true⟩) ∧
        (bound n < 18 * p → 18 * p ≤ last n → due ⟨18 * p, some f, false⟩) ∧
        (bound n < 18 * p → last n < 18 * p → due ⟨last n, none, false⟩))) ∧
    (∀ o : Nominal, x.framesRun = true → x.stitchUp = false → x.sti.start = none → x.tmg.due = some o → x.pcl.deferred = [] →
      x.on F.bltFrozen = false →
      let began (z : Die) : Prop := z.tmg.inFrame = true ∧ z.tmg.lines = 0 ∧ z.tmg.due = none ∧
        z.tmg.lastStart = some x.now18 ∧ z.get F.curLine = 0 ∧ z.get F.startLo = x.ns % 2 ^ 32 ∧ z.trim.window = false
      (∀ b, o.frame = some f → x.bufOf f = some b → (x.buf b).settled = true → x.acd.freeze = false → x.get F.join = 4 →
        Ends s (.frameStart d) d fun z => began z ∧ z.tmg.display = b ∧ z.tmg.lastFrame = some f ∧
          z.get F.frameLo = f % 2 ^ 32 ∧ More x z F.tmgShown ∧ z.get F.tmgRepeat = x.get F.tmgRepeat) ∧
      (∀ k, o.frame = none ∨ x.acd.freeze = true ∨ x.get F.join ≠ 4 → x.shownNo = some k →
        Ends s (.frameStart d) d fun z => began z ∧ z.tmg.display = x.tmg.display ∧ z.get F.frameLo = x.get F.frameLo ∧
          More x z F.tmgRepeat ∧ z.get F.tmgShown = x.get F.tmgShown))

/-- O42 (R187, R206, R246, R248, R307, R337–R341): the line period and the end of the frame. A line period advances the line count;
under BLANK the line that it processes is staged as zeros; vertical blanking releases a WAIT_EVENT for it; at frame end the
Blotter compares every armed rectangle with what it expects. Readings of the model that it rests on, not rules of the
spec: log entries 11, 27, 55. -/
def Obligations.LinesRun : Prop :=
  ∀ (s : State) (d : DieId), s.Up d →
    let x := s.at d
    let n := x.tmg.lines
    (∀ obs, x.tmg.inFrame = false ∨ x.on F.scanOwn = false → Does s (.lineStart d obs) d x) ∧
    (∀ obs, x.tmg.inFrame = true → x.on F.scanOwn = true →
      (n = 0 ∨ x.height < n → x.on F.run = false →
        Does s (.lineStart d obs) d
          ({ x.put F.curLine (min n 0xFFFF) with tmg := { x.tmg with lines := n + 1 } }.aheadLine n)) ∧
      (1 ≤ n → n ≤ x.height → x.on F.run = false →
        Ends s (.lineStart d obs) d fun z => z.tmg.lines = n + 1 ∧ z.get F.curLine = n ∧
          (x.blanked = true → x.on F.ldbEn = true → x.wear.sampling = false →
            x.permits 5 false (x.stageAt (n - 1)) (6 * x.width) 1 = true →
            z.peek false (x.stageAt (n - 1)) (6 * x.width) = List.replicate (6 * x.width) 0)) ∧
      (∀ t < 8, n = 0 → x.on F.run = true → x.on (F.tmEnable t) = true → x.get (F.tmFirst t) = 0 →
        Ends s (.lineStart d obs) d fun z => More x z (F.tmFires t))) ∧
    (x.tmg.inFrame = false ∨ n ≠ x.height + 1 → Does s (.vblankStart d) d x) ∧
    (∀ w, x.tmg.inFrame = true → n = x.height + 1 → x.hif.wait = some w → w.kind = 3 → w.sel = 0 → CanComplete x →
      Does s (.vblankStart d) d { x with hif := { x.hif with wait := none } } ∧
      Emits s (.vblankStart d) d (x.completionOut w.cmd 0 0)) ∧
    (x.tmg.inFrame = false ∨ n < x.height + 3 ∨ x.trim.window = true → Does s (.frameEnd d) d x) ∧
    (x.tmg.inFrame = true → x.height + 3 ≤ n → x.trim.window = false →
      Ends s (.frameEnd d) d fun z => z.trim.window = true ∧ z.tmg = x.tmg ∧
        ∀ k < 16, ∀ q, (x.rect k).cur = some q →
          let ph := x.get F.oddPhase
          let v := cvuFinal x.lyr.bltSel (x.rect k).crc
          let bad := v ≠ q.expect.getD (if q.tap = 2 then ph else 0) 0
          z.get (F.bltValue k) = v % 2 ^ 32 ∧ z.get (F.bltPhase k) = ph ∧
          (bad → (z.rect k).run = (x.rect k).run + 1 ∧ (z.get F.bltMismatch).testBit k = true ∧ More x z (F.bltCount k) ∧
            (q.freeze = true → z.on F.bltFrozen = true)) ∧
          (¬ bad → (z.rect k).run = 0 ∧ (z.get F.bltMismatch).testBit k = false ∧ z.get (F.bltCount k) = x.get (F.bltCount k)))

/-- O43 (R283): the log code of a wear counter, and what it decodes to. -/
def Obligations.LogCodes : Prop :=
  (∀ c, c < 1024 → logCode c = c) ∧
  (∀ c, 1024 ≤ c → c < 2 ^ 48 →
    let e := Nat.log2 c + 1 - 10
    logCode c = (e <<< 10) ||| ((c >>> (e - 1)) &&& 0x3FF)) ∧
  (∀ c, c < 2 ^ 48 → logCode c ≤ 39935) ∧
  (∀ c c', c ≤ c' → c' < 2 ^ 48 → logCode c ≤ logCode c') ∧
  (∀ code,
    let e := code >>> 10
    let f := code &&& 0x3FF
    (e = 0 → logDecode code = code) ∧ (e = 1 → logDecode code = (1024 + f) * 2 ^ (e - 1)) ∧
    (2 ≤ e → logDecode code = (1024 + f) * 2 ^ (e - 1) + 2 ^ (e - 2))) ∧
  (∀ c, c < 2 ^ 48 →
    let diff := ((logDecode (logCode c) : Int) - c).natAbs
    (c < 1024 → diff = 0) ∧ (1024 ≤ c → 4 * diff ≤ 2 ^ (Nat.log2 c + 1 - 10)) ∧ 2048 * diff ≤ c)

/-- O44 (R264, R267, R253, R257, R265, R296, R297): what the pixel pipeline does at its ends. Black and white of either luma range are
0 and 65535; a transparent layer leaves what is below and an opaque one replaces it; EOTF 0 and the unit matrix are the identity,
full brightness too, and brightness 0 is black; a dithered value has the driver's depth, and without dither it is truncated. -/
def Obligations.PixelsKeepTheirEnds : Prop :=
  (∀ m < 3, ∀ n, n = 8 ∨ n = 10 →
    let mid := 16 * 2 ^ (n - 1)
    ycbcr m n false (16 * 2 ^ (n - 8)) mid mid = (0, 0, 0) ∧
    ycbcr m n false (235 * 2 ^ (n - 8)) mid mid = (65535, 65535, 65535) ∧
    ycbcr m n true 0 mid mid = (0, 0, 0) ∧ ycbcr m n true (2 ^ n - 1) mid mid = (65535, 65535, 65535)) ∧
  (∀ dst src, dst ≤ 65535 → src ≤ 65535 → blend false dst src 0 = dst ∧ blend false dst src 65535 = src ∧
    blend true dst 0 0 = dst ∧ ∀ a, a ≤ 65535 → blend false dst src a ≤ 65535) ∧
  ∀ (x : Die) (v : Nat), v ≤ 65535 →
    (∀ c, x.get F.eotfSel = 0 → x.eotf c v = v) ∧
    (x.get F.brightness = 4095 → x.bright v = v) ∧ (x.get F.brightness = 0 → x.bright v = 0) ∧
    (∀ g b, g ≤ 65535 → b ≤ 65535 → (∀ i < 9, x.get (F.cmCoef i) = if i % 4 = 0 then 0x4000 else 0) →
      x.gamut (v, g, b) = (v, g, b)) ∧
    ∀ c px y, x.get F.depth < 3 →
      x.dither v c px y < 2 ^ x.depth ∧
      (x.on F.dithEn = false → x.dither v c px y = (v - v / 2 ^ x.depth) / 2 ^ (16 - x.depth))

/-- O45 (R297): the error of the dither in one frame and over the four phases. With D = 12, 14 or 16 and s = 16 − D, `v'` is
v − (v >> D), and j = M[Y][X] mod 4. -/
def Obligations.DitherErrorIsBounded : Prop :=
  ∀ (x : Die) (v c px y : Nat), v ≤ 65535 → x.get F.depth < 3 →
    let v' := v - v / 2 ^ x.depth
    let out (phase : Nat) : Nat := (x.put F.oddPhase phase).dither v c px y
    let sum := out 0 + out 1 + out 2 + out 3
    let gx := (px + x.get F.oddOx + bits x.lyr.dphase 2 2 + c) % 4
    let gy := (y + x.get F.oddOy + bits x.lyr.dphase 4 2) % 4
    let j := ditherMatrix.getD (4 * gy + gx) 0 % 4
    (∀ k < 4, ((2 ^ (16 - x.depth) * out k : Nat) - (v' : Int)).natAbs < 2 ^ (16 - x.depth)) ∧
    (x.on F.dithEn = true → x.depth = 12 → (4 * (sum : Int) - v').natAbs ≤ 3 ∧ sum = (v' + j) / 4 ∧
      ∀ k < 4, ∃ phase < 4, out phase = (v' + (j + 4 * k)) / 16) ∧
    (x.on F.dithEn = true → x.depth = 14 → sum = v' ∧ ∀ k < 4, ∃ phase < 4, out phase = (v' + k) / 4) ∧
    (x.on F.dithEn = true → x.depth = 16 → sum = 4 * v')

/-- O46 (R271, R272, R279, R281, R282, R285): correction and wear. A finished build is due at the next frame start, and one whose map
has gone is reported; a pass starts in FOLD_HOUR (above 23 acts as 23) under its conditions, ends with the swap due, and is abandoned without a map; the hour's part is
checkpointed, waits for the engine, or is overdue; WEAR_CFG.EN does not rise over the staging area, and WEAR_STRIP is stored
while it is 0. Readings of the model that it rests on, not rules of the spec: log entries 17, 24, 33. -/
def Obligations.CorrectionAndWear : Prop :=
  ∀ (s : State) (d : DieId), s.Up d →
    let x := s.at d
    let p := s.mod.rtc.toNat / 3600 % 24
    let y := x.put F.nextPart ((p + 1) % 24)
    let hour := p = min 23 (x.get F.foldHour)
    (x.wear.build = false → Does s (.corMapBuildDone d) d x) ∧
    (x.wear.build = true →
      (x.mapSource = none →
        Does s (.corMapBuildDone d) d ({ x with wear := { x.wear with build := false } }.flag F.building x.wear.pass) ∧
        Raises s (.corMapBuildDone d) d 0x91 0) ∧
      (∀ c, x.mapSource = some c → x.on F.corFold = false → x.permits 7 true (bankAt x.inuse) x.bankBytes 1 = true →
        Ends s (.corMapBuildDone d) d fun z => z.wear.build = false ∧ z.lyr.mapDue = true ∧
          z.peek true (bankAt x.inuse) x.bankBytes = x.setBytes (mapBlock c) 0 x.bankBytes)) ∧
    (¬ hour ∨ x.on F.corFold = false ∨ x.keyOk = false ∨ x.wear.pass = true ∨ (x.power ≠ .active ∧ x.power ≠ .relay) →
      Does s (.retargetStart d) d x) ∧
    (hour → x.on F.corFold = true → x.keyOk = true → x.wear.pass = false → x.power = .active ∨ x.power = .relay →
      Ends s (.retargetStart d) d fun z => z.wear.pass = x.mapSource.isSome) ∧
    (x.wear.pass = false → Does s (.retargetPassDone d) d x) ∧
    (x.wear.pass = true →
      (x.mapSource = none →
        Does s (.retargetPassDone d) d ({ x with wear := { x.wear with pass := false } }.flag F.building x.wear.build) ∧
        Raises s (.retargetPassDone d) d 0x93 4) ∧
      (x.mapSource.isSome = true →
        Ends s (.retargetPassDone d) d fun z => z.wear.pass = false ∧ z.lyr.swapDue = true ∧ z.inuse = x.inuse)) ∧
    (x.cst.wait = none →
      (x.mayCheckpoint = false → Does s (.wearCheckpoint d) d ({ y with
        wear := { x.wear with overdue := x.wear.overdue.filter (· != p) ++ [p] } }.flag F.overdue true)) ∧
      (x.mayCheckpoint = true → x.cst.op ≠ .idle →
        Does s (.wearCheckpoint d) d { y with cst := { x.cst with wait := some p } }) ∧
      (x.mayCheckpoint = true → x.cst.op = .idle → p < x.height / 8 → 0 < x.width →
        Ends s (.wearCheckpoint d) d fun z => z.get F.nextPart = (p + 1) % 24 ∧ z.on F.cstBusy = true ∧
          ∃ copy rs, z.cst.op = .part p copy 0 rs false ∧ copy < 2)) ∧
    (x.wear.overdue = [] ∨ x.mayCheckpoint = false ∨ x.cst.op ≠ .idle → Does s (.wearCheckpointOverdue d) d x) ∧
    (∀ q t, x.wear.overdue = q :: t → x.mayCheckpoint = true → x.cst.op = .idle → q < x.height / 8 → q < 24 → 0 < x.width →
      Ends s (.wearCheckpointOverdue d) d fun z => z.wear.overdue = t ∧ z.on F.cstBusy = true ∧
        ∃ copy rs, z.cst.op = .part q copy 0 rs false ∧ copy < 2) ∧
    (x.barOpen = true → ∀ v : Word,
      (Ends s (.wearEnable d v) d fun z =>
        (z.on F.wearEn = (x.on F.wearEn || !(x.on F.ldbEn && x.stripOverlaps))) ∧ z.get F.gmax = bits v.toNat 16 16) ∧
      (x.on F.wearEn = true → Does s (.wearStripWrite d v) d x) ∧
      (x.on F.wearEn = false → Ends s (.wearStripWrite d v) d fun z => z.get F.stripBase = bits v.toNat 5 18))

/-- O47 (R79, R300, R303–R306, R311, R312, R317, R318, R345): the driver bus. Enable needs every condition of R317 and names the first that
fails; disable stops the clocks, and a die that owned the scan gives it up (assumption 30); guarded registers are stored only
while LDB is disabled, and LDB_SCAN only with its delays in order; a GS_WRITE leaves before frame end once its lamps are staged, as zeros under BLANK; every frame follows two IDLE words;
LATCH follows the last of them on every lane; and a segment boundary starts the next row slot, at row 0 with the latched bank.
Readings of the model that it rests on, not rules of the spec: log entries 12, 25, 30. -/
def Obligations.DriverBusRuns : Prop :=
  ∀ (s : State) (d : DieId), s.Up d →
    let x := s.at d
    let sel := cvuSel x 2
    let alive (l : Nat) : BitVec 16 := (look x.ldb.txAlive l).getD 0
    (x.barOpen = true →
      (x.on F.ldbEn = true → Does s (.ldbEnable d) d x) ∧
      (x.on F.ldbEn = false →
        (∀ n, x.enableFault = some n → (Ends s (.ldbEnable d) d fun z => z.on F.ldbEn = false) ∧
          Raises s (.ldbEnable d) d 0xA0 n) ∧
        (x.enableFault = none → Ends s (.ldbEnable d) d fun z => z.on F.ldbEn = true ∧ z.on F.scanOwn = x.on F.scanOwn) ∧
        (x.on F.gclkRun = false → Raises s (.ldbEnable d) d 0xA0 1) ∧
        Does s (.ldbDisable d) d x) ∧
      (x.on F.ldbEn = true → x.on F.scanOwn = false → x.takeover = .none → x.ldb.unknown = false → x.scanOpen = false →
        Does s (.ldbDisable d) d { (x.flag F.ldbEn false).flag F.echoBusy false with
          ldb := { x.ldb with dclk := false, requests := Vector.replicate 4 none, scan := [], skip := true, sent := [] }
          tmg := { x.tmg with late := 0, reserved := 0, reservedSlice := 0 } }) ∧
      (x.on F.ldbEn = true → x.on F.scanOwn = true → Ends s (.ldbDisable d) d fun z =>
        z.on F.ldbEn = false ∧ z.on F.scanOwn = false ∧ z.ldb.driving = false ∧ z.ldb.oe = false ∧ z.ldb.dclk = false ∧
          z.power = x.power ∧ Out.rowRelease ∈ z.out) ∧
      (∀ (off : BitVec 16) (v : Word), isLdbCfg off.toNat = true →
        let dly := bits v.toNat 16 8
        let bad := x.on F.ldbEn = true ∨ (off = 0x600C ∧ (dly = 0 ∨ bits v.toNat 8 8 ≤ dly))
        (x.keeps off.toNat v = true → Does s (.ldbCfgWrite d off v) d x) ∧
        (x.keeps off.toNat v = false → bad → Does s (.ldbCfgWrite d off v) d x ∧
          Raises s (.ldbCfgWrite d off v) d 0xAC (off.toNat + 65536 * (v.toNat % 65536))) ∧
        (x.keeps off.toNat v = false → ¬ bad → Does s (.ldbCfgWrite d off v) d (x.store off.toNat v)))) ∧
    (∀ (l : Fin 32) (r first m : Fin 64),
      let n := m.val + 1
      let is := (List.range n).map fun i => (l.val, r.val, first.val + i)
      (x.ldbSends = false ∨ x.trim.window = true → Does s (.gsWriteSend d l r first m) d x) ∧
      (x.ldbSends = true → x.trim.window = false → (x.get F.ldbLanes).testBit l = true → first.val + n ≤ x.ics → r.val < x.scanRatio →
        (x.rowPixels l r first n).all x.pixelReady = true → (∀ i ∈ is, i ∉ x.ldb.sent) →
        Ends s (.gsWriteSend d l r first m) d fun z =>
          z.ldb.sent = x.ldb.sent ++ is ∧ look z.ldb.txAlive l.val = some (alive l + 1) ∧ Out.ldbIdle l 2 ∈ z.out ∧
          (x.blanked = true → Out.ldb l (ldbFrame sel 1 first r false m x.ldb.bank (List.replicate (x.gsLen n) 0) (alive l))
            ∈ z.out))) ∧
    (x.ldbSends = false ∨ x.allSent = false ∨ x.ldb.latched = x.ldb.bank → Does s (.latchSend d) d x) ∧
    (x.ldbSends = true → x.allSent = true → x.ldb.latched ≠ x.ldb.bank → Ends s (.latchSend d) d fun z =>
      z.ldb.latched = x.ldb.bank ∧ z.ldb.latchPending = true ∧ z.ldb.shown = x.ldb.shown ∧
      ∀ l ∈ x.ldbLaneList, Out.ldbIdle l 2 ∈ z.out ∧ Out.ldb l (ldbFrame sel 2 0 0 true 0 0 (x.scanWords x.ldb.bank) (alive l)) ∈ z.out) ∧
    (x.on F.gclkRun = false → Does s (.segmentBoundary d) d x) ∧
    (x.on F.gclkRun = true → x.on F.scanOwn = false → Does s (.segmentBoundary d) d
      { x with clk := { x.clk with seg := segClamp (x.get F.segLog2) } }) ∧
    (x.on F.gclkRun = true → x.on F.scanOwn = true → Ends s (.segmentBoundary d) d fun z =>
      let r := if x.ldb.oe then (x.ldb.row + 1) % x.scanRatio else 0
      z.ldb.row = r ∧ z.ldb.oe = true ∧ z.ldb.driving = true ∧
      [Out.row x.ldb.row false, .row r false, .row r true] <+: z.out ∧
      (r = 0 → x.ldb.latchPending = true → z.ldb.shown = x.ldb.latched ∧ z.ldb.latchPending = false) ∧
      (r ≠ 0 ∨ x.ldb.latchPending = false → z.ldb.shown = x.ldb.shown ∧ z.ldb.latchPending = x.ldb.latchPending))

/-- O48 (R322, R326, R327, R334): the panel keeps its picture. The idle time-out sets its cause where no settled frame waits at a
JOINED die; a die that owns the scan then hands off at the frame end, with HOLD on every lane, the row lines released and GCLK
stopped; a die without the scan enters SILLAGE-RELAY at once. On the way to SILLAGE-DEEP the die says for three SYNC periods
that it is leaving, then lets its units end, and then is deep; DRYDOWN ends by forwarding no more. Readings of the model
that it rests on, not rules of the spec: log entries 11, 37. -/
def Obligations.PanelHandsOff : Prop :=
  ∀ (s : State) (d : DieId), s.Up d →
    let x := s.at d
    let awake := x.power = .active ∨ x.power = .relay ∨ x.power = .deep
    let due := x.power = .active ∧ x.handoffDue = true ∧ (x.tmg.inFrame = false ∨ x.trim.window = true)
    (x.get F.idleMs = 0 ∨ ¬ awake ∨ (x.get F.join = 4 ∧ x.frameWaits = true) → Does s (.sillageIdleTimeout d) d x) ∧
    (x.get F.idleMs ≠ 0 → awake → x.get F.join ≠ 4 ∨ x.frameWaits = false → Ends s (.sillageIdleTimeout d) d fun z =>
      z.on F.silIdle = true ∧ z.on F.silHost = x.on F.silHost ∧ z.mem = x.mem ∧
      (x.on F.scanOwn = true ∨ x.power ≠ .active ∨ x.takeover = .resumed → z.power = x.power) ∧
      (x.on F.scanOwn = true → x.power = .active → z.handoffDue = true) ∧
      (x.on F.scanOwn = false → x.power = .active → x.takeover ≠ .resumed → z.power = .relay)) ∧
    (¬ due ∨ x.on F.scanOwn = false → Does s (.sillageHandoff d) d x) ∧
    (due → x.on F.scanOwn = true → Ends s (.sillageHandoff d) d fun z =>
      z.power = .relay ∧ z.handoffDue = false ∧ z.on F.scanOwn = false ∧ z.on F.gclkRun = false ∧ z.ldb.dclk = false ∧
      z.ldb.driving = false ∧ z.ldb.oe = false ∧ z.on F.ldbEn = x.on F.ldbEn ∧ More x z F.handoffs ∧ Out.rowRelease ∈ z.out ∧
      ∀ l ∈ x.ldbLaneList, Out.ldb l (ldbFrame (cvuSel x 2) 3 0 0 true 0 0 (x.scanWords x.ldb.latched)
        ((look x.ldb.txAlive l).getD 0)) ∈ z.out) ∧
    (x.deepHolds = false →
      (x.power = .relay → Does s (.sillageDeepEntry d) d { x with acd := { x.acd with leaving := false } }) ∧
      (x.power ≠ .relay → Does s (.sillageDeepEntry d) d x)) ∧
    (x.deepHolds = true →
      (x.acd.leaving = false →
        Does s (.sillageDeepEntry d) d { x with acd := { x.acd with leaving := true }, leaveSyncs := 0 }) ∧
      (x.acd.leaving = true → x.leaveSyncs < 3 → Does s (.sillageDeepEntry d) d x) ∧
      (x.acd.leaving = true → 3 ≤ x.leaveSyncs → x.dmaDramBusy = true ∨ x.cst.op.flushing = true →
        Ends s (.sillageDeepEntry d) d fun z => z.power = .relay ∧ z.acd.leaving = true ∧ z.mem = x.mem ∧
          ∀ k : Chan, x.dramChan k = true →
            (x.chState k = 1 → z.chState k = 0) ∧
            (x.chState k = 2 ∨ x.chState k = 3 → z.chState k = x.chState k ∧ (z.chan k).draining = true)) ∧
      (x.acd.leaving = true → 3 ≤ x.leaveSyncs → x.dmaDramBusy = false → x.cst.op.flushing = false →
        Ends s (.sillageDeepEntry d) d fun z =>
          z.power = .deep ∧ z.on F.selfRefresh = true ∧ z.acd.leaving = true ∧ z.wear.pass = false ∧ z.mem = x.mem ∧
          (x.on F.qEnable = true → ∀ k : Lane, k ≠ 0 → z.laneSt k = 9 ∧ (z.get F.traffic).testBit k = false) ∧
          (∀ k : Chan, x.dramChan k = true → z.chState k = 0))) ∧
    (x.power ≠ .drydown ∨ x.forwarding = false → Does s (.drydownForwardEnd d) d x) ∧
    (x.power = .drydown → x.forwarding = true → Does s (.drydownForwardEnd d) d
      { x with forwarding := false, hif := { x.hif with polling := false } })

/-- O49 (R249, R284, R300, R309, R310, R316, R319, R331–R333): the way back to the scan. A takeover reads the identity record anew, then asks for GCLK,
then for the scan master on lane 0; words that do not begin with SYNC are no reply; a reply in HOLD brings RESUME where the scan cycles agree; a silent driver is asked once more,
and then the takeover has failed and can be retried; without TE the die takes the scan at once, at row 0 with the held bank.
Readings of the model that it rests on, not rules of the spec: log entries 9, 11, 25, 37. -/
def Obligations.TakeoversRun : Prop :=
  ∀ (s : State) (d : DieId), s.Up d →
    let x := s.at d
    let clear := x.takeoverReady = true ∧ x.wear.reading = none
    let runs := x.on F.gclkRun = true ∧ x.get F.gclkCur = x.get F.gclkNext
    let asked (c : Instr) : Prop := Ends s c d fun z =>
      z.takeover = .asked ∧ z.ldb.dclk = true ∧ z.on F.silTakeover = true ∧ z.echo 0 = some ⟨0, x.get F.smAddr, false⟩ ∧
        Out.ldbIdle 0 2 ∈ z.out
    let reads (c : Instr) : Prop := Ends s c d fun z =>
      z.takeover = .waiting ∧ z.wear.reading = some 0 ∧ z.wear.readDone = false ∧ z.on F.pidBusy = true ∧
        Out.pidRead (x.get F.pidAddr) (x.on F.pidFast) 0 256 ∈ z.out
    (x.takeover = .none → x.takeoverReady = false → Does s (.takeoverStart d) d x) ∧
    (x.takeover = .none → clear → reads (.takeoverStart d)) ∧
    (x.takeover = .waiting → clear → x.wear.readDone = true → runs → asked (.takeoverStart d)) ∧
    (x.takeover = .waiting → x.takeoverReady = false → Ends s (.takeoverStart d) d fun z => z.takeover = .none) ∧
    (x.takeover = .asked ∨ x.takeover = .resumed ∨ x.takeover = .failed → Does s (.takeoverStart d) d x) ∧
    (x.takeover ≠ .failed → Does s (.takeoverRetry d) d x) ∧
    (x.takeover = .failed → clear → x.wear.readDone = true → runs → asked (.takeoverRetry d)) ∧
    (x.takeover = .failed → clear → x.wear.readDone = false → reads (.takeoverRetry d)) ∧
    (x.takeover = .failed → x.takeoverReady = false → Ends s (.takeoverRetry d) d fun z => z.takeover = .none) ∧
    (x.takeover ≠ .waiting ∨ x.wear.readDone = false → Does s (.gclkStartRetry d) d x) ∧
    (x.takeover = .waiting → clear → x.wear.readDone = true → x.on F.gclkRun = false → x.clk.phase = .none →
      x.get F.gclkNext ≠ 0 → Ends s (.gclkStartRetry d) d fun z =>
        z.takeover = .waiting ∧ z.clk.phase = .locking false ∧ z.clk.target = x.get F.gclkNext ∧ z.on F.gclkPend = true) ∧
    (∀ r, x.wear.reading = none → x.takeover = .none → Does s (.identityReadDone d r) d x) ∧
    (∀ r n, x.wear.reading = some n → x.takeover = .none →
      (recordFault r ≠ 0 → n < 2 → Does s (.identityReadDone d r) d { x with wear := { x.wear with reading := some (n + 1) } } ∧
        Emits s (.identityReadDone d r) d (.pidRead (x.get F.pidAddr) (x.on F.pidFast) 0 256)) ∧
      (recordFault r ≠ 0 → 2 ≤ n →
        (Ends s (.identityReadDone d r) d fun z => z.wear.reading = none ∧ z.wear.readDone = true ∧ z.wear.key = none ∧
          z.on F.recordOk = false) ∧ Raises s (.identityReadDone d r) d 0xA6 (recordFault r)) ∧
      (recordFault r = 0 → Ends s (.identityReadDone d r) d fun z => z.wear.reading = none ∧ z.wear.readDone = true ∧
        z.wear.key = some (recordKey r) ∧ z.on F.recordOk = true)) ∧
    (∀ (g : Group) (ws : List (BitVec 16)),
      (x.echo g = none → Does s (.echoReplyReceive d g ws) d x ∧ Does s (.ldbEchoTimeout d g) d x) ∧
      (∀ r, x.echo g = some r →
        let st0 := (ws.getD 1 0).toNat
        let good := ws.head? = some 0xA5C3 ∧ x.replyOk (2 * x.flagWords) ws = true ∧
          aliveTest (look x.pcl.rxAlive (.ldb (Fin.ofNat 32 r.lane))) (ws.getD (ws.length - 2) 0) = .accepted
        (good → x.takeover = .asked → st0.testBit 15 = true → x.on F.teOk = false →
          Ends s (.echoReplyReceive d g ws) d fun z => z.takeover = .resumed ∧ z.get F.heldBank = bits st0 13 2 ∧
            ∀ l ∈ x.ldbLaneList, Out.ldb l (ldbFrame (cvuSel x 2) 6 0 0 true 0 0 [] ((look x.ldb.txAlive l).getD 0)) ∈ z.out) ∧
        (good → x.takeover = .asked → st0.testBit 15 = false →
          (Ends s (.echoReplyReceive d g ws) d fun z => z.takeover = .failed ∧ z.ldb.dclk = false) ∧
          Raises s (.echoReplyReceive d g ws) d 0xAA 2) ∧
        (good → x.takeover ≠ .asked → Ends s (.echoReplyReceive d g ws) d fun z =>
          z.ldb.flags = x.ldb.flags ++ [(r.lane, r.addr, (ws.drop 3).take x.flagWords,
            (ws.drop (3 + x.flagWords)).take x.flagWords)] ∧ More x z (F.cvuPass 2)) ∧
        (ws.head? ≠ some 0xA5C3 → Does s (.echoReplyReceive d g ws) d x) ∧
        (ws.head? = some 0xA5C3 → x.replyOk (2 * x.flagWords) ws = false → r.retried = false → r.lane / 8 = g.val → Ends s (.echoReplyReceive d g ws) d fun z =>
          More x z (F.cvuFail 2) ∧ More x z F.echoFail ∧ z.echo g = some { r with retried := true }) ∧
        (r.retried = false → r.lane / 8 = g.val → Ends s (.ldbEchoTimeout d g) d fun z =>
          More x z F.echoTo ∧ z.echo g = some { r with retried := true }) ∧
        (r.retried = true → x.takeover = .asked →
          (Ends s (.ldbEchoTimeout d g) d fun z => z.takeover = .failed ∧ z.echo g = none) ∧
          Raises s (.ldbEchoTimeout d g) d 0xAA 1))) ∧
    (x.takeover ≠ .resumed ∨ x.on F.teOk = true → Does s (.takeoverUnaligned d) d x) ∧
    (x.takeover = .resumed → x.on F.teOk = false → x.power ≠ .drydown → Ends s (.takeoverUnaligned d) d fun z =>
      z.on F.scanOwn = true ∧ z.power = .active ∧ z.takeover = .none ∧ z.ldb.row = 0 ∧ z.ldb.oe = false ∧ z.ldb.driving = true ∧
        z.ldb.bank = x.get F.heldBank ∧ z.ldb.shown = x.get F.heldBank ∧ z.on F.echoValid = false ∧ Out.row 0 false ∈ z.out)

/-- O50 (R310, R343–R352): the trim engine. A step takes one lane or input in a window: DESKEW the centre of the longest run of taps
whose probe the IC gives back, THRESH the middle between the lowest tap seen low and the highest seen high, RXOFF one in-lane, which counts as out of traffic. A kind
takes its taps only where nothing has failed in it; IREF applies the command's code. Kinds run by themselves at the first
opportunity and when the temperature has moved; one that waits is reported once; a command that cannot start is BUSY.
Readings of the model that it rests on, not rules of the spec: log entries 18, 26. -/
def Obligations.TrimRuns : Prop :=
  ∀ (s : State) (d : DieId), s.Up d →
    let x := s.at d
    let t := x.trim
    let last (k : Nat) : Prop := t.todo = [k] ∧ t.auto = false ∧ t.due = 0
    (t.todo = [] → ∀ r, Does s (.trimStepDone d r) d x) ∧
    (∀ (probes : List Replies) (l : Nat), t.todo.head? = some 0 → x.on F.scanOwn = true → x.windowOpen = true →
      x.ldbLaneList[t.pos]? = some l → x.echo (l / 8) = none →
      let run := longestRun (x.trainTaps l 64 deskewPay false probes).1 64
      let tap := (2 * run.2 + run.1 - 1) / 2
      let c : Instr := .trimStepDone d (.deskew probes)
      (t.pos + 1 < x.ldbLaneList.length → Ends s c d fun z =>
        z.trim.pos = t.pos + 1 ∧ z.trim.todo = t.todo ∧ z.trim.tap = t.tap ++ [(l, tap)] ∧
        z.trim.bad = (if 8 ≤ run.1 then t.bad else t.bad ++ [l]) ∧ z.trim.deskew = t.deskew) ∧
      (t.pos + 1 = x.ldbLaneList.length → last 0 → t.bad = [] → 8 ≤ run.1 → Ends s c d fun z =>
        z.trim.todo = [] ∧ z.get (trimKind 0) = 1 ∧ look z.trim.deskew l = some tap ∧ z.get F.failLanes = 0) ∧
      (t.pos + 1 = x.ldbLaneList.length → last 0 → run.1 < 8 → Ends s c d fun z =>
        z.trim.todo = [] ∧ z.get (trimKind 0) = 2 ∧ z.trim.deskew = t.deskew)) ∧
    (∀ (probes : List Replies) (low high : BitVec 32) (i a b : Nat), t.todo.head? = some 1 → x.on F.scanOwn = true →
      x.threshInputs[t.pos]? = some i → i = 4 ∨ (x.windowOpen = true ∧ x.echo i = none) → t.pos + 1 < x.threshInputs.length →
      a < 32 → low.toNat.testBit a = true → (∀ j < a, low.toNat.testBit j = false) →
      b < 32 → high.toNat.testBit b = true → (∀ j < 32, b < j → high.toNat.testBit j = false) →
      Ends s (.trimStepDone d (.thresh probes low high)) d fun z =>
        z.trim.pos = t.pos + 1 ∧ z.trim.todo = t.todo ∧ z.trim.tap = t.tap ++ [(i, (a + b) / 2)] ∧
        z.trim.bad = (if a + 6 ≤ b then t.bad else t.bad ++ [i]) ∧ z.trim.thresh = t.thresh) ∧
    (∀ (k : Lane) (data offset : Bool), t.todo.head? = some 2 → t.pos = k.val → k.val < 3 → (∀ j, x.laneSt j = 6) →
      x.windowOpen = true ∨ x.power = .relay ∨ x.on F.run = false →
      Ends s (.trimStepDone d (.rxoff data offset)) d fun z =>
        z.trim.pos = k.val + 1 ∧ z.trim.todo = t.todo ∧ (z.lane k).slipped = true ∧
        z.trim.bad = t.bad ++ List.replicate (b2n (!data) + b2n (!offset)) k.val ∧ z.trim.rxoff = t.rxoff) ∧
    (t.todo.head? ≠ some 3 ∨ t.irefDue = true → ∀ b, Does s (.irefMeasureDone d b) d x) ∧
    (t.todo.head? = some 3 → t.irefDue = false →
      (x.power ≠ .relay → Ends s (.irefMeasureDone d true) d fun z =>
        z.trim.irefDue = true ∧ z.trim.todo = t.todo ∧ z.trim.gain = t.gain ∧ z.trim.offset = t.offset ∧
          z.get F.irefCode = x.get F.irefCode) ∧
      (x.power = .relay → last 3 → t.bad = [] → t.code < 4096 → Ends s (.irefMeasureDone d true) d fun z =>
        z.trim.todo = [] ∧ z.get (trimKind 3) = 1 ∧ z.get F.irefCode = t.code ∧ Out.iref t.code ∈ z.out) ∧
      (last 3 →
        (Ends s (.irefMeasureDone d false) d fun z =>
          z.trim.todo = [] ∧ z.get (trimKind 3) = 2 ∧ z.on F.failIref = true ∧ z.trim.gain = t.gain ∧
            z.trim.offset = t.offset ∧ z.get F.irefCode = x.get F.irefCode) ∧
        Raises s (.irefMeasureDone d false) d 0xC1 3)) ∧
    (∀ k : Fin 3,
      let temp := x.dieTemp (s.ctx d)
      let moved : Prop := x.get (trimKind k.val) = 0 ∨
        4 * max 2 (min 20 (x.get F.trmDelta)) < (temp - 4 * toSigned 8 (x.get (trimTemp k.val))).natAbs
      let due : Prop := (x.get F.trmAuto).testBit k.val = true ∧ moved ∧ k.val ∉ t.todo ∧ x.power ≠ .deep ∧ x.power ≠ .drydown
      (¬ due → Does s (.trimAuto d k) d x) ∧
      (due → t.todo ≠ [] →
        Does s (.trimAuto d k) d { x with trim := { t with due := t.due ||| 2 ^ k.val } }) ∧
      (due → t.todo = [] → t.due = 0 → k.val = 2 ∨ (x.on F.scanOwn = true ∧ x.causeStands = false) →
        Ends s (.trimAuto d k) d fun z =>
          z.trim.todo = [k.val] ∧ z.trim.auto = true ∧ z.trim.pos = 0 ∧ z.get (trimKind k.val) = 3) ∧
      (t.todo.head? ≠ some k.val ∨ t.waitRaised = true → Does s (.trimWait d k) d x) ∧
      (t.todo.head? = some k.val → t.waitRaised = false →
        Does s (.trimWait d k) d { x with trim := { t with waitRaised := true } } ∧
        Raises s (.trimWait d k) d 0xC2 (2 ^ k.val))) ∧
    (x.hif.trim = none ∨ t.todo = [] → Does s (.trimStartTimeout d) d x) ∧
    (∀ j, x.hif.trim = some j → j.live = true → CanComplete x →
      (t.todo ≠ [] → t.auto = true → Answers s (.trimStartTimeout d) d j 0x05 (16 * (natAt j.args 0 1 % 16))
        { x with hif := { x.hif with trim := none } }) ∧
      (∀ k, last k → t.pos = 0 → t.irefDue = false →
        (Ends s (.trimStartTimeout d) d fun z => z.trim.todo = [] ∧ z.hif.trim = none ∧
          (k < 4 → z.get (trimKind k) = bits t.old (2 * k) 2)) ∧
        Emits s (.trimStartTimeout d) d (x.completionOut j.cmd 0x05 (t.passed + 16 * (t.missed + 2 ^ k))) ∧
        Raises s (.trimStartTimeout d) d 0xC0 (t.ran + 16 * t.passed)))

namespace Sys2Proof

/-- The flash outside the bytes from `a` up to `b`, and outside the journal's blocks, reads as before. -/
def FlashKept (x z : Die) (a b : Nat) : Prop :=
  ∀ k, 8 * flashBlock ≤ k → k < a ∨ b ≤ k → Memory.read 0xFF z.cst.flash k = Memory.read 0xFF x.cst.flash k

end Sys2Proof

/-- O51 (R231, R282, R285, R356, R360–R364): the store's engine, with nothing else waiting for it. The journal scan makes the store ready; a program
lands byte for byte, or fails at the first byte that reads back wrong; an erase leaves 0xFF in its block and goes on with the next,
and its failure is counted and reported; a checkpoint goes on record by record, each closed with its
check value once its block is erased, and no further once the panel's key does not match; a suspended erase ends only after it has been
resumed; a refresh starts once four years have passed. Readings of the model that it rests on, not rules of the spec: log
entries 18, 28, 32, 33. -/
def Obligations.StoreEngineRuns : Prop :=
  ∀ (s : State) (d : DieId), s.Up d →
    let x := s.at d
    let o := x.cst.op
    let rtc := s.mod.rtc.toNat
    let alone : Prop := x.cst.queued = none ∧ x.cst.wait = none ∧ x.cst.refresh = none
    let journalled : Prop := x.cst.jslot < journalSlots
    (x.power ≠ .booting ∨ x.cst.deviceOk = false ∨ x.on F.cstReady = true → Does s (.storeReady d) d x) ∧
    (x.power = .booting → x.cst.deviceOk = true → x.on F.cstReady = false →
      (Ends s (.storeReady d) d fun z => z.on F.cstReady = true ∧ z.power = .booting ∧ z.mem = x.mem) ∧
      (x.cst.flash = [] → Raises s (.storeReady d) d 0xD0 0 ∧ Ends s (.storeReady d) d fun z =>
        z.cst.jseq = 0 ∧ z.cst.jslot = 0 ∧ z.cst.refresh = none ∧ z.cst.flash = [])) ∧
    (o = .idle → (∀ bad, Does s (.storeProgramDone d bad) d x) ∧ ∀ ok, Does s (.storeEraseDone d ok) d x) ∧
    (∀ base data short j, o = .program base data short → alone → x.hif.store = some j → j.live = true → CanComplete x →
      let ended (z : Die) : Prop := z.cst.op = .idle ∧ z.hif.store = none ∧ z.on F.cstBusy = false ∧ z.mem = x.mem ∧
        FlashKept x z base (base + data.length)
      (Ends s (.storeProgramDone d none) d fun z => ended z ∧ z.flashRead base data.length = data) ∧
      Emits s (.storeProgramDone d none) d
        (if short then x.completionOut j.cmd 0x0A 0 else x.completionOut j.cmd 0 data.length) ∧
      (∀ n, n < data.length →
        (Ends s (.storeProgramDone d (some n)) d fun z => ended z ∧ z.flashRead base n = data.take n ∧ More x z F.cstWriteFail) ∧
        Emits s (.storeProgramDone d (some n)) d (x.completionOut j.cmd 0x07 n) ∧
        Raises s (.storeProgramDone d (some n)) d 0xD6 ((base + n) / flashBlock % 4096))) ∧
    (x.cst.suspended = true → ∀ ok, Does s (.storeEraseDone d ok) d x) ∧
    (∀ b left, o = .erase b left → 8 ≤ b → x.cst.suspended = false → journalled →
      (0 < left → Ends s (.storeEraseDone d true) d fun z => z.cst.op = .erase (b + 1) (left - 1) ∧
        FlashKept x z (b * flashBlock) ((b + 1) * flashBlock) ∧
        ∀ k, b * flashBlock ≤ k → k < (b + 1) * flashBlock → Memory.read 0xFF z.cst.flash k = 0xFF) ∧
      (∀ j, alone → x.hif.store = some j → j.live = true → CanComplete x →
        let ended (z : Die) : Prop := z.cst.op = .idle ∧ z.hif.store = none ∧ z.mem = x.mem ∧
          FlashKept x z (b * flashBlock) ((b + 1) * flashBlock)
        (left = 0 → (Ends s (.storeEraseDone d true) d fun z => ended z ∧
            ∀ k, b * flashBlock ≤ k → k < (b + 1) * flashBlock → Memory.read 0xFF z.cst.flash k = 0xFF) ∧
          Emits s (.storeEraseDone d true) d (x.completionOut j.cmd 0 0)) ∧
        (Ends s (.storeEraseDone d false) d fun z => ended z ∧ More x z F.cstWriteFail) ∧
        Emits s (.storeEraseDone d false) d (x.completionOut j.cmd 0x07 0) ∧
        Raises s (.storeEraseDone d false) d 0xD7 (b % 4096))) ∧
    (∀ p copy i rs, journalled →
      (o = .part p copy i rs false → x.cst.suspended = false → x.wear.ledgerOk = true →
        Ends s (.storeEraseDone d true) d fun z =>
          z.cst.op = .part p copy i (rs.set i (sealRecord (cvuSel x 3) (rs.getD i []))) true) ∧
      (o = .part p copy i rs false → x.cst.suspended = false → x.wear.ledgerOk = false → alone → ∀ ok,
        Ends s (.storeEraseDone d ok) d fun z => z.cst.op = .idle) ∧
      (o = .part p copy i rs true → x.wear.ledgerOk = false → alone → ∀ bad,
        Ends s (.storeProgramDone d bad) d fun z => z.cst.op = .idle) ∧
      (∀ r, o = .part p copy i rs true → i + 1 < rs.length → x.power ≠ .drydown → x.wear.ledgerOk = true → rs[i]? = some r →
        Ends s (.storeProgramDone d none) d fun z => z.cst.op = .part p copy (i + 1) rs false ∧
          z.flashRead ((partBlock p copy + i) * flashBlock) r.length = r)) ∧
    (x.cst.suspended = true → x.cst.drySuspended = false →
      Does s (.storeEraseResume d) d ({ x with cst := { x.cst with suspended := false } }.flag F.cstSuspended false)) ∧
    (x.cst.suspended = false ∨ x.cst.drySuspended = true → Does s (.storeEraseResume d) d x) ∧
    (let due : Prop := x.on F.refreshEn = true ∧ 126230400 ≤ toSigned 32 (rtc + 2 ^ 32 - x.get F.refreshLast)
    let may : Prop := (x.power = .active ∨ x.power = .relay) ∧ x.on F.cstReady = true
    (¬ due ∨ ¬ may ∨ x.cst.refresh ≠ none → Does s (.storeRefreshStart d) d x) ∧
    (due → may → x.cst.refresh = none → o ≠ .idle →
      (Ends s (.storeRefreshStart d) d fun z => z.cst.refresh = some (8, false) ∧ z.on F.refreshRun = true ∧ z.cst.op = o) ∧
      Raises s (.storeRefreshStart d) d 0xD4 0))

namespace Sys2Proof

/-- A command raises no event at die `d`. -/
def Quiet (s : State) (c : Instr) (d : DieId) : Prop :=
  ∃ t, exec c s = .next t ∧ ∀ i < 16, (t.die d).get (F.evtRaised i) = (s.at d).get (F.evtRaised i)

/-- A register that a write only stores to (R4, R5): no other block refuses the value or acts on the write. -/
def plainReg (o : Nat) : Bool :=
  o % 4 == 0 && (regRow o).isSome &&
    !([0x0008, 0x0408, 0x040C, 0x0410, 0x080C, 0x0810, 0x1000, 0x1004, 0x2000, 0x203C, 0x3800, 0x4000, 0x4004, 0x4008, 0x400C,
      0x5000, 0x5040, 0x5050, 0x5800, 0x6000, 0x6800, 0x6C0C].contains o) &&
    !(0x1868 ≤ o && o ≤ 0x1874) && !isHifCfg o && !isLdbCfg o && !(0x4800 ≤ o && o < 0x5000)

/-- The bit of a register that a write selects by its byte enables. -/
def enabled (be : BitVec 4) (i : Nat) : Bool := be.getLsbD (i / 8)

end Sys2Proof

/-- O52 (R3–R5, R68, R154, R177, R179, R219, R368, R373, R379, R385): BAR0. A write of a plain register stores the enabled bits that are
RW, or RWS before the seal, clears those that are W1C and written 1, and changes no other register; before BOOT_DONE only SYS,
CLK and PWR are served; the MSI-X table takes its words, and a vector unmasked with its bit pending is sent, while the function's
MSI-X is enabled and not masked; a read of a pair's LO latches its HI; a read of an RC counter clears it, and any other read of a
register, of the table or of the pending bits changes nothing. Readings of the model that it rests on, not rules of the
spec: log entries 19, 42, 47. -/
def Obligations.RegistersAnswer : Prop :=
  ∀ (s : State) (d : DieId), s.Up d →
    let x := s.at d
    (∀ (o : BitVec 16) (v : Word) (be : BitVec 4) (r : RegRow), plainReg o.toNat = true → regRow o.toNat = some r →
      x.barOpen = true ∨ o.toNat < 0x1000 →
      ∃ w : Word, Does s (.registerWrite d o v be) d (x.setReg o.toNat w) ∧
        ∀ i < 32, w.getLsbD i =
          if enabled be i && r.w1c.testBit i && v.getLsbD i then false
          else if enabled be i && (r.rw.testBit i || (r.rws.testBit i && !x.on F.sealed)) then v.getLsbD i
          else (x.reg o.toNat).getLsbD i) ∧
    (∀ (o : BitVec 16) (v : Word) (be : BitVec 4), 0x1000 ≤ o.toNat → o.toNat < 0x8000 → x.barOpen = false →
      Does s (.registerWrite d o v be) d x ∧ Quiet s (.registerWrite d o v be) d) ∧
    (∀ (o : BitVec 16) (v : Word) (be : BitVec 4), o.toNat = 0x0810 →
      Does s (.registerWrite d o v be) d
        { x with keep := { x.keep with status := x.keep.status &&& ~~~(if be.getLsbD 0 then v.setWidth 7 else 0) } }) ∧
    (∀ (k : Fin 32) (i : Fin 4) (v : Word),
      let old : Word := smGet msixReset x.hif.msix (4 * k.val + i.val)
      let w : Word := if i.val = 3 then (old &&& ~~~1) ||| (v &&& 1) else v
      (Ends s (.registerWrite d (BitVec.ofNat 16 (0x8000 + 16 * k.val + 4 * i.val)) v 0xF) d fun z =>
        smGet msixReset z.hif.msix (4 * k.val + i.val) = w ∧
        ∀ j, j ≠ 4 * k.val + i.val → smGet msixReset z.hif.msix j = smGet msixReset x.hif.msix j) ∧
      (i.val = 3 → v.getLsbD 0 = false → x.hif.pba.testBit k.val = true → x.hif.d3hot = false →
        x.hif.link.msixEnable = true → x.hif.link.msixMask = false →
        let word (j : Nat) : Word := smGet msixReset x.hif.msix (4 * k.val + j)
        Emits s (.registerWrite d (BitVec.ofNat 16 (0x8000 + 16 * k.val + 12)) v 0xF) d
          (.msix k.val ((word 0).toNat + 2 ^ 32 * (word 1).toNat) (word 2)))) ∧
    (∀ (o : BitVec 16) (hi : Nat), pairHi o.toNat = some hi → x.barOpen = true ∨ o.toNat < 0x1000 →
      let c : Instr := .loReadLatch d o
      Emits s c d (.barRead (x.view (s.ctx d) o.toNat)) ∧
      Does s c d { x with latch := assoc x.latch hi (x.view (s.ctx d) hi) } ∧
      (∀ k, k ≠ hi → Ends s c d fun z => look z.latch k = look x.latch k)) ∧
    (∀ o : BitVec 16, isPairHi o.toNat = true → x.barOpen = true ∨ o.toNat < 0x1000 →
      Emits s (.loReadLatch d o) d (.barRead ((look x.latch o.toNat).getD 0)) ∧ Does s (.loReadLatch d o) d x) ∧
    (∀ o : BitVec 16, rcBits o.toNat ≠ 0 → x.barOpen = true →
      Emits s (.rcCounterRead d o) d (.barRead (x.view (s.ctx d) o.toNat)) ∧
      Ends s (.rcCounterRead d o) d fun z =>
        z.reg o.toNat = x.reg o.toNat &&& ~~~(BitVec.ofNat 32 (rcBits o.toNat)) ∧
        (∀ k, k ≠ o.toNat → z.reg k = x.reg k) ∧ (o.toNat = 0x3304 → z.mem.violHeld = false) ∧ z.mem.dram = x.mem.dram ∧
        z.mem.scratch = x.mem.scratch) ∧
    (∀ o : BitVec 16,
      let a := o.toNat - o.toNat % 4
      let reads (v : Word) : Prop := Does s (.rcCounterRead d o) d x ∧ Emits s (.rcCounterRead d o) d (.barRead v)
      (a < 0x8000 → x.served a = false → reads 0) ∧
      (a < 0x8000 → x.served a = true → rcBits a = 0 → pairHi a = none → isPairHi a = false → a ≠ 0x3304 →
        reads (x.view (s.ctx d) a)) ∧
      (0x8000 ≤ a → a < 0x8200 → reads (smGet msixReset x.hif.msix ((a - 0x8000) / 4))) ∧
      (a = 0xC000 → reads (BitVec.ofNat 32 x.hif.pba)) ∧ (a = 0xC004 → reads 0) ∧
      (0x8200 ≤ a → a ≠ 0xC000 → a ≠ 0xC004 →
        Does s (.rcCounterRead d o) d x ∧ Emits s (.rcCounterRead d o) d .barUnsupported))

namespace Sys2Proof

/-- An offset below 0x8000 that holds no register. -/
def Reserved (o : Nat) : Prop := o % 4 = 0 ∧ o < 0x8000 ∧ regRow o = none

end Sys2Proof

/-- O53 (R384): reserved offsets. A read returns 0; a write, or a SET_FIELD of MODE 1, completes, is not stored and raises no event;
beyond 0x8000 an access outside the MSI-X table and the pending-bit array is Unsupported Request or dropped with
BAR_ACCESS_SIZE, and a write to the pending-bit array is accepted and not stored. -/
def Obligations.ReservedOffsetsHoldNothing : Prop :=
  ∀ (s : State) (d : DieId), s.Up d →
    let x := s.at d
    (∀ o c, Reserved o → x.barRead c o = (0, x)) ∧
    (∀ (o : BitVec 16) (v : Word) (be : BitVec 4), Reserved o.toNat →
      Does s (.registerWrite d o v be) d x ∧ Quiet s (.registerWrite d o v be) d) ∧
    (∀ b : List Byte, opIs 0x04 b = true → natAt b 8 1 = 1 → Reserved (natAt b 16 4) →
      x.Head b false false false [(8, 1), (12, 12)] true →
      Completes s (.setFieldRegister d) d 0 0 x) ∧
    (∀ (o : BitVec 16) (v : Word) (be : BitVec 4), 0x8000 ≤ o.toNat →
      (0xC000 ≤ o.toNat → o.toNat < 0xC008 →
        Does s (.registerWrite d o v be) d x ∧ Quiet s (.registerWrite d o v be) d) ∧
      (0x8200 ≤ o.toNat → o.toNat < 0xC000 ∨ 0xC008 ≤ o.toNat →
        (Does s (.registerWrite d o v be) d x ∧
          Raises s (.registerWrite d o v be) d 0x5A (o.toNat - o.toNat % 4 + 65536 * (v.toNat % 65536))) ∧
        Does s (.barAccessSize d false o v) d x ∧ Emits s (.barAccessSize d false o v) d .barUnsupported))

/-- O54 (R362, R367, R368, R373): the end of BOOTING and the seal. Boot is complete once CCLK has locked, memory is initialised
and the store is ready or has failed, unless a Drydown runs; 0x5EA1 seals once, with its event, and any other write does nothing.
After the seal a write at a register of RWS fields leaves them, whatever its value. Readings of the model that it rests
on, not rules of the spec: log entries 14, 47. -/
def Obligations.BootEndsAndTheSealHolds : Prop :=
  ∀ (s : State) (d : DieId), s.Up d →
    let x := s.at d
    let ms := max 200 (x.cclk / 400000)
    let ready : Prop := x.power = .booting ∧ x.on F.cclkLock = true ∧ x.on F.initDone = true ∧
      (x.on F.cstReady = true ∨ x.on F.deviceFail = true) ∧ s.mod.drydown = none
    (ready →
      (Ends s (.bootComplete d) d fun z => z.power = .active ∧ z.on F.bootDone = true ∧ z.get F.bootMs = min ms 0xFFFF ∧
        z.mem = x.mem ∧ z.cst = x.cst ∧ z.on F.sealed = x.on F.sealed) ∧
      Raises s (.bootComplete d) d 0xF0 (ms % 2 ^ 16)) ∧
    (¬ ready → Does s (.bootComplete d) d x) ∧
    (∀ v : Word,
      (v.toNat % 65536 = 0x5EA1 → x.on F.sealed = false →
        Does s (.sysSealWrite d v) d (x.flag F.sealed true) ∧ Raises s (.sysSealWrite d v) d 0xF2 0) ∧
      (v.toNat % 65536 ≠ 0x5EA1 ∨ x.on F.sealed = true →
        Does s (.sysSealWrite d v) d x ∧ Quiet s (.sysSealWrite d v) d)) ∧
    (x.on F.sealed = true → ∀ (o : BitVec 16) (v : Word) (be : BitVec 4),
      (∀ r, regRow o.toNat = some r → r.rws ≠ 0 → o.toNat % 4 = 0 →
        Does s (.registerWrite d o v be) d x ∧ Quiet s (.registerWrite d o v be) d) ∧
      (0x1868 ≤ o.toNat → o.toNat < 0x1878 → Does s (.registerWrite d o v be) d x))

/-- O55: the command at the front of the queue is what a step runs, on the state with the queue's rest; with an empty queue one
CCLK passes at the dies that run, and their Accord time goes on by its rate (the model's choice, assumption 2). Readings
of the model that it rests on, not rules of the spec: log entries 2. -/
def Obligations.StepRunsTheFront : Prop :=
  ∀ s : State,
    (∀ c, step { s with pending := c :: s.pending } = exec c s) ∧
    (s.pending = [] → ∃ t, step s = .next t ∧ t.pending = [] ∧ t.mod = { s.mod with out := [] } ∧
      ∀ d, (s.mod.runs = false → t.die d = s.at d) ∧
        (s.mod.runs = true → (t.die d).cclk = (s.die d).cclk + 1 ∧ (t.die d).regs = (s.die d).regs ∧
          (t.die d).acd.time = (s.die d).acd.time + (10737418240 + 5 * (s.die d).acd.rate / 2).toNat))

/-- O56 (R16, R68): every command answers a next state and leaves the queue. One that is not the module's acts at one die: the other
die is as it was, whatever it is, and so is the keeper, but for the counter that SET_FIELD MODE 2 sets; while the dies do not run
it does nothing. Readings of the model that it rests on, not rules of the spec: log entries 1. -/
def Obligations.EveryCommandAnswers : Prop :=
  ∀ (c : Instr) (s : State),
    ∃ t, exec c s = .next t ∧ t.pending = s.pending ∧
      (ofModule c = false → ∃ d : DieId, t.die d.other = s.die d.other ∧
        ((∀ e, c ≠ .rtcSet e) → t.mod = s.mod) ∧ { t.mod with rtc := s.mod.rtc } = s.mod ∧
        (s.mod.runs = false → t.die d = s.at d ∧ t.mod = s.mod))

/-- O57 (R16): what a die's command does depends on that die, the keeper, and of the other die the power state and whether
it still waits to lock to REFCLK alone: two states that
agree on these go on to states that agree on them, whatever else differs. Readings of the model that it rests on, not
rules of the spec: log entries 9. -/
def Obligations.EachDieStandsAlone : Prop :=
  ∀ c : Instr, ofModule c = false → ∃ d : DieId, ∀ s u : State,
    s.die d = u.die d → s.mod = u.mod → (s.die d.other).power = (u.die d.other).power →
    (s.die d.other).sti.barred = (u.die d.other).sti.barred →
    ∃ t v, exec c s = .next t ∧ exec c u = .next v ∧ t.die d = v.die d ∧ t.mod = v.mod ∧
      t.die d.other = s.die d.other ∧ v.die d.other = u.die d.other

/-- O58 (R376): a raise shows in EVT_LAST and EVT_LAST_DETAIL and counts in EVT_RAISED whatever becomes of its entry. Its bit of
EVT_MASK keeps a code that is not critical from the ring and the backlog, and a critical one from neither; a masked EVENTS_LOST
restarts its count, which stays in EVT_LAST_DETAIL. -/
def Obligations.EventMasksHold : Prop :=
  ∀ (x : Die) (code detail : Nat) (entry : Bool), code < 256 →
    let y := x.raiseNow code detail entry
    let masked : Prop := (x.get (F.evtMask (code / 32))).testBit (code % 32) = true
    y.get F.evtCode = code ∧ y.get F.evtDetail = detail % 2 ^ 32 ∧ y.get F.evtSev = severity code ∧
    More x y (F.evtRaised (code / 16)) ∧
    (∀ period key, ∃ e, (x.raiseLim period key code detail).hif.raised = x.hif.raised ++ [(code, detail, e)]) ∧
    (severity code ≠ 3 → masked → y.out = x.out ∧ y.hif = x.hif) ∧
    (severity code = 3 ∨ ¬ masked → entry = true → x.hif.logging = false → x.hif.d3hot = false → x.hif.backlog = [] →
      x.evtSpace = true → ∃ bs, bs.length = 16 ∧ natAt bs 0 1 = code ∧ natAt bs 8 4 = detail % 2 ^ 32 ∧
        y.out = x.out ++ [.hostWrite (x.base64 0x2028 + 16 * (x.hif.evtTail.toNat % ringSize (x.get F.evtLog2))) bs false false]) ∧
    (severity code = 3 ∨ ¬ masked → entry = true → x.hif.logging = true → x.hif.backlog.length < 64 →
      ∃ e : Event, e.code = code ∧ e.detail = detail % 2 ^ 32 ∧ y.hif.backlog = x.hif.backlog ++ [e]) ∧
    (0 < x.hif.lost + x.hif.logLost → (x.get (F.evtMask 2)).testBit 18 = true →
      let z := x.eventsLost
      z.hif.lost = 0 ∧ z.hif.logLost = 0 ∧ z.out = x.out ∧ z.get F.evtCode = 0x52 ∧
        z.get F.evtDetail = min (x.hif.lost + x.hif.logLost) 0xFFFFFFFF)

namespace Sys2Proof

/-- No raise waits at a die. -/
def RaisesTaken (s : State) : Prop := s.w.hif.raised = [] ∧ s.e.hif.raised = []

end Sys2Proof

/-- O59 (R375, R376): every step of every state keeps `RaisesTaken`: what a command has raised has taken effect when it ends.
Readings of the model that it rests on, not rules of the spec: log entries 2. -/
def Obligations.RaisesAreTaken : Prop := ∀ s t : State, RaisesTaken s → step s = .next t → RaisesTaken t

/-- O60 (R48, R54, R55, R248, R343, R366, R388): what reset leaves: the keeper in OFF with nothing powered and no command waiting, the
rules of `PowerInv` and `RaisesTaken`, both dies in BOOTING with each register at its reset value, the MSI-X vectors masked, the
channels IDLE, the flash erased and memory in its canonical form. The values of chapter 26 and the keeper's are in the log.
Readings of the model that it rests on, not rules of the spec: log entries 7, 8, 10, 17, 34. -/
def Obligations.ResetLeaves : Prop :=
  let s := State.reset
  PowerInv s.mod ∧ RaisesTaken s ∧ s.pending = [] ∧ s.mod.phase = .off ∧ s.mod.diesUp = false ∧ s.mod.sw = false ∧
  ∀ d, let x := s.die d
    x.id = d ∧ x.power = .booting ∧ (∀ off, x.reg off = resetVal d off) ∧
    (∀ k : Fin 32, ∀ j : Fin 4, smGet msixReset x.hif.msix (4 * k.val + j.val) = if j.val = 3 then 1 else 0) ∧ x.hif.pba = 0 ∧
    (∀ k : Chan, x.chState k = 0) ∧ (∀ a, Memory.read 0xFF x.cst.flash a = 0xFF) ∧
    Memory.wf 0 x.mem.dram = true ∧ Memory.wf 0 x.mem.scratch = true ∧ Memory.wf 0xFF x.cst.flash = true ∧
    (∀ off, look x.latch off = none) ∧ (∀ k < 4, x.get (trimKind k) = 0) ∧ x.acd.hostBlank = true ∧ x.acd.ownA = 0xFF

end
end

