-- ==== Sys2Proof/Laws/State.lean ====
section
/-! SUPPORT. One lemma per field and update: what the register writes, outputs and raises leave as it was. -/

namespace Sys2Proof.Machine

@[simp] theorem Die.setReg_id (x : Die) (off : Nat) (v : Word) : (x.setReg off v).id = x.id := rfl
@[simp] theorem Die.setReg_power (x : Die) (off : Nat) (v : Word) : (x.setReg off v).power = x.power := rfl
@[simp] theorem Die.setReg_keep (x : Die) (off : Nat) (v : Word) : (x.setReg off v).keep = x.keep := rfl
@[simp] theorem Die.setReg_cclk (x : Die) (off : Nat) (v : Word) : (x.setReg off v).cclk = x.cclk := rfl
@[simp] theorem Die.setReg_free (x : Die) (off : Nat) (v : Word) : (x.setReg off v).free = x.free := rfl
@[simp] theorem Die.setReg_latch (x : Die) (off : Nat) (v : Word) : (x.setReg off v).latch = x.latch := rfl
@[simp] theorem Die.setReg_limits (x : Die) (off : Nat) (v : Word) : (x.setReg off v).limits = x.limits := rfl
@[simp] theorem Die.setReg_hif (x : Die) (off : Nat) (v : Word) : (x.setReg off v).hif = x.hif := rfl
@[simp] theorem Die.setReg_clk (x : Die) (off : Nat) (v : Word) : (x.setReg off v).clk = x.clk := rfl
@[simp] theorem Die.setReg_qphy (x : Die) (off : Nat) (v : Word) : (x.setReg off v).qphy = x.qphy := rfl
@[simp] theorem Die.setReg_pcl (x : Die) (off : Nat) (v : Word) : (x.setReg off v).pcl = x.pcl := rfl
@[simp] theorem Die.setReg_acd (x : Die) (off : Nat) (v : Word) : (x.setReg off v).acd = x.acd := rfl
@[simp] theorem Die.setReg_sti (x : Die) (off : Nat) (v : Word) : (x.setReg off v).sti = x.sti := rfl
@[simp] theorem Die.setReg_channels (x : Die) (off : Nat) (v : Word) : (x.setReg off v).channels = x.channels := rfl
@[simp] theorem Die.setReg_mem (x : Die) (off : Nat) (v : Word) : (x.setReg off v).mem = x.mem := rfl
@[simp] theorem Die.setReg_tmg (x : Die) (off : Nat) (v : Word) : (x.setReg off v).tmg = x.tmg := rfl
@[simp] theorem Die.setReg_lyr (x : Die) (off : Nat) (v : Word) : (x.setReg off v).lyr = x.lyr := rfl
@[simp] theorem Die.setReg_wear (x : Die) (off : Nat) (v : Word) : (x.setReg off v).wear = x.wear := rfl
@[simp] theorem Die.setReg_ldb (x : Die) (off : Nat) (v : Word) : (x.setReg off v).ldb = x.ldb := rfl
@[simp] theorem Die.setReg_takeover (x : Die) (off : Nat) (v : Word) : (x.setReg off v).takeover = x.takeover := rfl
@[simp] theorem Die.setReg_rects (x : Die) (off : Nat) (v : Word) : (x.setReg off v).rects = x.rects := rfl
@[simp] theorem Die.setReg_bltSetters (x : Die) (off : Nat) (v : Word) : (x.setReg off v).bltSetters = x.bltSetters := rfl
@[simp] theorem Die.setReg_trim (x : Die) (off : Nat) (v : Word) : (x.setReg off v).trim = x.trim := rfl
@[simp] theorem Die.setReg_cst (x : Die) (off : Nat) (v : Word) : (x.setReg off v).cst = x.cst := rfl
@[simp] theorem Die.setReg_handoffDue (x : Die) (off : Nat) (v : Word) : (x.setReg off v).handoffDue = x.handoffDue := rfl
@[simp] theorem Die.setReg_leaveSyncs (x : Die) (off : Nat) (v : Word) : (x.setReg off v).leaveSyncs = x.leaveSyncs := rfl
@[simp] theorem Die.setReg_forwarding (x : Die) (off : Nat) (v : Word) : (x.setReg off v).forwarding = x.forwarding := rfl
@[simp] theorem Die.setReg_out (x : Die) (off : Nat) (v : Word) : (x.setReg off v).out = x.out := rfl
@[simp] theorem Die.put_id (x : Die) (f : F) (n : Nat) : (x.put f n).id = x.id := rfl
@[simp] theorem Die.put_power (x : Die) (f : F) (n : Nat) : (x.put f n).power = x.power := rfl
@[simp] theorem Die.put_keep (x : Die) (f : F) (n : Nat) : (x.put f n).keep = x.keep := rfl
@[simp] theorem Die.put_cclk (x : Die) (f : F) (n : Nat) : (x.put f n).cclk = x.cclk := rfl
@[simp] theorem Die.put_free (x : Die) (f : F) (n : Nat) : (x.put f n).free = x.free := rfl
@[simp] theorem Die.put_latch (x : Die) (f : F) (n : Nat) : (x.put f n).latch = x.latch := rfl
@[simp] theorem Die.put_limits (x : Die) (f : F) (n : Nat) : (x.put f n).limits = x.limits := rfl
@[simp] theorem Die.put_hif (x : Die) (f : F) (n : Nat) : (x.put f n).hif = x.hif := rfl
@[simp] theorem Die.put_clk (x : Die) (f : F) (n : Nat) : (x.put f n).clk = x.clk := rfl
@[simp] theorem Die.put_qphy (x : Die) (f : F) (n : Nat) : (x.put f n).qphy = x.qphy := rfl
@[simp] theorem Die.put_pcl (x : Die) (f : F) (n : Nat) : (x.put f n).pcl = x.pcl := rfl
@[simp] theorem Die.put_acd (x : Die) (f : F) (n : Nat) : (x.put f n).acd = x.acd := rfl
@[simp] theorem Die.put_sti (x : Die) (f : F) (n : Nat) : (x.put f n).sti = x.sti := rfl
@[simp] theorem Die.put_channels (x : Die) (f : F) (n : Nat) : (x.put f n).channels = x.channels := rfl
@[simp] theorem Die.put_mem (x : Die) (f : F) (n : Nat) : (x.put f n).mem = x.mem := rfl
@[simp] theorem Die.put_tmg (x : Die) (f : F) (n : Nat) : (x.put f n).tmg = x.tmg := rfl
@[simp] theorem Die.put_lyr (x : Die) (f : F) (n : Nat) : (x.put f n).lyr = x.lyr := rfl
@[simp] theorem Die.put_wear (x : Die) (f : F) (n : Nat) : (x.put f n).wear = x.wear := rfl
@[simp] theorem Die.put_ldb (x : Die) (f : F) (n : Nat) : (x.put f n).ldb = x.ldb := rfl
@[simp] theorem Die.put_takeover (x : Die) (f : F) (n : Nat) : (x.put f n).takeover = x.takeover := rfl
@[simp] theorem Die.put_rects (x : Die) (f : F) (n : Nat) : (x.put f n).rects = x.rects := rfl
@[simp] theorem Die.put_bltSetters (x : Die) (f : F) (n : Nat) : (x.put f n).bltSetters = x.bltSetters := rfl
@[simp] theorem Die.put_trim (x : Die) (f : F) (n : Nat) : (x.put f n).trim = x.trim := rfl
@[simp] theorem Die.put_cst (x : Die) (f : F) (n : Nat) : (x.put f n).cst = x.cst := rfl
@[simp] theorem Die.put_handoffDue (x : Die) (f : F) (n : Nat) : (x.put f n).handoffDue = x.handoffDue := rfl
@[simp] theorem Die.put_leaveSyncs (x : Die) (f : F) (n : Nat) : (x.put f n).leaveSyncs = x.leaveSyncs := rfl
@[simp] theorem Die.put_forwarding (x : Die) (f : F) (n : Nat) : (x.put f n).forwarding = x.forwarding := rfl
@[simp] theorem Die.put_out (x : Die) (f : F) (n : Nat) : (x.put f n).out = x.out := rfl
@[simp] theorem Die.flag_id (x : Die) (f : F) (b : Bool) : (x.flag f b).id = x.id := rfl
@[simp] theorem Die.flag_power (x : Die) (f : F) (b : Bool) : (x.flag f b).power = x.power := rfl
@[simp] theorem Die.flag_keep (x : Die) (f : F) (b : Bool) : (x.flag f b).keep = x.keep := rfl
@[simp] theorem Die.flag_cclk (x : Die) (f : F) (b : Bool) : (x.flag f b).cclk = x.cclk := rfl
@[simp] theorem Die.flag_free (x : Die) (f : F) (b : Bool) : (x.flag f b).free = x.free := rfl
@[simp] theorem Die.flag_latch (x : Die) (f : F) (b : Bool) : (x.flag f b).latch = x.latch := rfl
@[simp] theorem Die.flag_limits (x : Die) (f : F) (b : Bool) : (x.flag f b).limits = x.limits := rfl
@[simp] theorem Die.flag_hif (x : Die) (f : F) (b : Bool) : (x.flag f b).hif = x.hif := rfl
@[simp] theorem Die.flag_clk (x : Die) (f : F) (b : Bool) : (x.flag f b).clk = x.clk := rfl
@[simp] theorem Die.flag_qphy (x : Die) (f : F) (b : Bool) : (x.flag f b).qphy = x.qphy := rfl
@[simp] theorem Die.flag_pcl (x : Die) (f : F) (b : Bool) : (x.flag f b).pcl = x.pcl := rfl
@[simp] theorem Die.flag_acd (x : Die) (f : F) (b : Bool) : (x.flag f b).acd = x.acd := rfl
@[simp] theorem Die.flag_sti (x : Die) (f : F) (b : Bool) : (x.flag f b).sti = x.sti := rfl
@[simp] theorem Die.flag_channels (x : Die) (f : F) (b : Bool) : (x.flag f b).channels = x.channels := rfl
@[simp] theorem Die.flag_mem (x : Die) (f : F) (b : Bool) : (x.flag f b).mem = x.mem := rfl
@[simp] theorem Die.flag_tmg (x : Die) (f : F) (b : Bool) : (x.flag f b).tmg = x.tmg := rfl
@[simp] theorem Die.flag_lyr (x : Die) (f : F) (b : Bool) : (x.flag f b).lyr = x.lyr := rfl
@[simp] theorem Die.flag_wear (x : Die) (f : F) (b : Bool) : (x.flag f b).wear = x.wear := rfl
@[simp] theorem Die.flag_ldb (x : Die) (f : F) (b : Bool) : (x.flag f b).ldb = x.ldb := rfl
@[simp] theorem Die.flag_takeover (x : Die) (f : F) (b : Bool) : (x.flag f b).takeover = x.takeover := rfl
@[simp] theorem Die.flag_rects (x : Die) (f : F) (b : Bool) : (x.flag f b).rects = x.rects := rfl
@[simp] theorem Die.flag_bltSetters (x : Die) (f : F) (b : Bool) : (x.flag f b).bltSetters = x.bltSetters := rfl
@[simp] theorem Die.flag_trim (x : Die) (f : F) (b : Bool) : (x.flag f b).trim = x.trim := rfl
@[simp] theorem Die.flag_cst (x : Die) (f : F) (b : Bool) : (x.flag f b).cst = x.cst := rfl
@[simp] theorem Die.flag_handoffDue (x : Die) (f : F) (b : Bool) : (x.flag f b).handoffDue = x.handoffDue := rfl
@[simp] theorem Die.flag_leaveSyncs (x : Die) (f : F) (b : Bool) : (x.flag f b).leaveSyncs = x.leaveSyncs := rfl
@[simp] theorem Die.flag_forwarding (x : Die) (f : F) (b : Bool) : (x.flag f b).forwarding = x.forwarding := rfl
@[simp] theorem Die.flag_out (x : Die) (f : F) (b : Bool) : (x.flag f b).out = x.out := rfl
@[simp] theorem Die.bump_id (x : Die) (f : F) (k : Nat) : (x.bump f k).id = x.id := rfl
@[simp] theorem Die.bump_power (x : Die) (f : F) (k : Nat) : (x.bump f k).power = x.power := rfl
@[simp] theorem Die.bump_keep (x : Die) (f : F) (k : Nat) : (x.bump f k).keep = x.keep := rfl
@[simp] theorem Die.bump_cclk (x : Die) (f : F) (k : Nat) : (x.bump f k).cclk = x.cclk := rfl
@[simp] theorem Die.bump_free (x : Die) (f : F) (k : Nat) : (x.bump f k).free = x.free := rfl
@[simp] theorem Die.bump_latch (x : Die) (f : F) (k : Nat) : (x.bump f k).latch = x.latch := rfl
@[simp] theorem Die.bump_limits (x : Die) (f : F) (k : Nat) : (x.bump f k).limits = x.limits := rfl
@[simp] theorem Die.bump_hif (x : Die) (f : F) (k : Nat) : (x.bump f k).hif = x.hif := rfl
@[simp] theorem Die.bump_clk (x : Die) (f : F) (k : Nat) : (x.bump f k).clk = x.clk := rfl
@[simp] theorem Die.bump_qphy (x : Die) (f : F) (k : Nat) : (x.bump f k).qphy = x.qphy := rfl
@[simp] theorem Die.bump_pcl (x : Die) (f : F) (k : Nat) : (x.bump f k).pcl = x.pcl := rfl
@[simp] theorem Die.bump_acd (x : Die) (f : F) (k : Nat) : (x.bump f k).acd = x.acd := rfl
@[simp] theorem Die.bump_sti (x : Die) (f : F) (k : Nat) : (x.bump f k).sti = x.sti := rfl
@[simp] theorem Die.bump_channels (x : Die) (f : F) (k : Nat) : (x.bump f k).channels = x.channels := rfl
@[simp] theorem Die.bump_mem (x : Die) (f : F) (k : Nat) : (x.bump f k).mem = x.mem := rfl
@[simp] theorem Die.bump_tmg (x : Die) (f : F) (k : Nat) : (x.bump f k).tmg = x.tmg := rfl
@[simp] theorem Die.bump_lyr (x : Die) (f : F) (k : Nat) : (x.bump f k).lyr = x.lyr := rfl
@[simp] theorem Die.bump_wear (x : Die) (f : F) (k : Nat) : (x.bump f k).wear = x.wear := rfl
@[simp] theorem Die.bump_ldb (x : Die) (f : F) (k : Nat) : (x.bump f k).ldb = x.ldb := rfl
@[simp] theorem Die.bump_takeover (x : Die) (f : F) (k : Nat) : (x.bump f k).takeover = x.takeover := rfl
@[simp] theorem Die.bump_rects (x : Die) (f : F) (k : Nat) : (x.bump f k).rects = x.rects := rfl
@[simp] theorem Die.bump_bltSetters (x : Die) (f : F) (k : Nat) : (x.bump f k).bltSetters = x.bltSetters := rfl
@[simp] theorem Die.bump_trim (x : Die) (f : F) (k : Nat) : (x.bump f k).trim = x.trim := rfl
@[simp] theorem Die.bump_cst (x : Die) (f : F) (k : Nat) : (x.bump f k).cst = x.cst := rfl
@[simp] theorem Die.bump_handoffDue (x : Die) (f : F) (k : Nat) : (x.bump f k).handoffDue = x.handoffDue := rfl
@[simp] theorem Die.bump_leaveSyncs (x : Die) (f : F) (k : Nat) : (x.bump f k).leaveSyncs = x.leaveSyncs := rfl
@[simp] theorem Die.bump_forwarding (x : Die) (f : F) (k : Nat) : (x.bump f k).forwarding = x.forwarding := rfl
@[simp] theorem Die.bump_out (x : Die) (f : F) (k : Nat) : (x.bump f k).out = x.out := rfl
@[simp] theorem Die.emit_id (x : Die) (o : Out) : (x.emit o).id = x.id := rfl
@[simp] theorem Die.emit_power (x : Die) (o : Out) : (x.emit o).power = x.power := rfl
@[simp] theorem Die.emit_keep (x : Die) (o : Out) : (x.emit o).keep = x.keep := rfl
@[simp] theorem Die.emit_cclk (x : Die) (o : Out) : (x.emit o).cclk = x.cclk := rfl
@[simp] theorem Die.emit_free (x : Die) (o : Out) : (x.emit o).free = x.free := rfl
@[simp] theorem Die.emit_regs (x : Die) (o : Out) : (x.emit o).regs = x.regs := rfl
@[simp] theorem Die.emit_latch (x : Die) (o : Out) : (x.emit o).latch = x.latch := rfl
@[simp] theorem Die.emit_limits (x : Die) (o : Out) : (x.emit o).limits = x.limits := rfl
@[simp] theorem Die.emit_hif (x : Die) (o : Out) : (x.emit o).hif = x.hif := rfl
@[simp] theorem Die.emit_clk (x : Die) (o : Out) : (x.emit o).clk = x.clk := rfl
@[simp] theorem Die.emit_qphy (x : Die) (o : Out) : (x.emit o).qphy = x.qphy := rfl
@[simp] theorem Die.emit_pcl (x : Die) (o : Out) : (x.emit o).pcl = x.pcl := rfl
@[simp] theorem Die.emit_acd (x : Die) (o : Out) : (x.emit o).acd = x.acd := rfl
@[simp] theorem Die.emit_sti (x : Die) (o : Out) : (x.emit o).sti = x.sti := rfl
@[simp] theorem Die.emit_channels (x : Die) (o : Out) : (x.emit o).channels = x.channels := rfl
@[simp] theorem Die.emit_mem (x : Die) (o : Out) : (x.emit o).mem = x.mem := rfl
@[simp] theorem Die.emit_tmg (x : Die) (o : Out) : (x.emit o).tmg = x.tmg := rfl
@[simp] theorem Die.emit_lyr (x : Die) (o : Out) : (x.emit o).lyr = x.lyr := rfl
@[simp] theorem Die.emit_wear (x : Die) (o : Out) : (x.emit o).wear = x.wear := rfl
@[simp] theorem Die.emit_ldb (x : Die) (o : Out) : (x.emit o).ldb = x.ldb := rfl
@[simp] theorem Die.emit_takeover (x : Die) (o : Out) : (x.emit o).takeover = x.takeover := rfl
@[simp] theorem Die.emit_rects (x : Die) (o : Out) : (x.emit o).rects = x.rects := rfl
@[simp] theorem Die.emit_bltSetters (x : Die) (o : Out) : (x.emit o).bltSetters = x.bltSetters := rfl
@[simp] theorem Die.emit_trim (x : Die) (o : Out) : (x.emit o).trim = x.trim := rfl
@[simp] theorem Die.emit_cst (x : Die) (o : Out) : (x.emit o).cst = x.cst := rfl
@[simp] theorem Die.emit_handoffDue (x : Die) (o : Out) : (x.emit o).handoffDue = x.handoffDue := rfl
@[simp] theorem Die.emit_leaveSyncs (x : Die) (o : Out) : (x.emit o).leaveSyncs = x.leaveSyncs := rfl
@[simp] theorem Die.emit_forwarding (x : Die) (o : Out) : (x.emit o).forwarding = x.forwarding := rfl
@[simp] theorem Die.note_id (x : Die) (c n : Nat) (b : Bool) : (x.note c n b).id = x.id := rfl
@[simp] theorem Die.note_power (x : Die) (c n : Nat) (b : Bool) : (x.note c n b).power = x.power := rfl
@[simp] theorem Die.note_keep (x : Die) (c n : Nat) (b : Bool) : (x.note c n b).keep = x.keep := rfl
@[simp] theorem Die.note_cclk (x : Die) (c n : Nat) (b : Bool) : (x.note c n b).cclk = x.cclk := rfl
@[simp] theorem Die.note_free (x : Die) (c n : Nat) (b : Bool) : (x.note c n b).free = x.free := rfl
@[simp] theorem Die.note_regs (x : Die) (c n : Nat) (b : Bool) : (x.note c n b).regs = x.regs := rfl
@[simp] theorem Die.note_latch (x : Die) (c n : Nat) (b : Bool) : (x.note c n b).latch = x.latch := rfl
@[simp] theorem Die.note_limits (x : Die) (c n : Nat) (b : Bool) : (x.note c n b).limits = x.limits := rfl
@[simp] theorem Die.note_clk (x : Die) (c n : Nat) (b : Bool) : (x.note c n b).clk = x.clk := rfl
@[simp] theorem Die.note_qphy (x : Die) (c n : Nat) (b : Bool) : (x.note c n b).qphy = x.qphy := rfl
@[simp] theorem Die.note_pcl (x : Die) (c n : Nat) (b : Bool) : (x.note c n b).pcl = x.pcl := rfl
@[simp] theorem Die.note_acd (x : Die) (c n : Nat) (b : Bool) : (x.note c n b).acd = x.acd := rfl
@[simp] theorem Die.note_sti (x : Die) (c n : Nat) (b : Bool) : (x.note c n b).sti = x.sti := rfl
@[simp] theorem Die.note_channels (x : Die) (c n : Nat) (b : Bool) : (x.note c n b).channels = x.channels := rfl
@[simp] theorem Die.note_mem (x : Die) (c n : Nat) (b : Bool) : (x.note c n b).mem = x.mem := rfl
@[simp] theorem Die.note_tmg (x : Die) (c n : Nat) (b : Bool) : (x.note c n b).tmg = x.tmg := rfl
@[simp] theorem Die.note_lyr (x : Die) (c n : Nat) (b : Bool) : (x.note c n b).lyr = x.lyr := rfl
@[simp] theorem Die.note_wear (x : Die) (c n : Nat) (b : Bool) : (x.note c n b).wear = x.wear := rfl
@[simp] theorem Die.note_ldb (x : Die) (c n : Nat) (b : Bool) : (x.note c n b).ldb = x.ldb := rfl
@[simp] theorem Die.note_takeover (x : Die) (c n : Nat) (b : Bool) : (x.note c n b).takeover = x.takeover := rfl
@[simp] theorem Die.note_rects (x : Die) (c n : Nat) (b : Bool) : (x.note c n b).rects = x.rects := rfl
@[simp] theorem Die.note_bltSetters (x : Die) (c n : Nat) (b : Bool) : (x.note c n b).bltSetters = x.bltSetters := rfl
@[simp] theorem Die.note_trim (x : Die) (c n : Nat) (b : Bool) : (x.note c n b).trim = x.trim := rfl
@[simp] theorem Die.note_cst (x : Die) (c n : Nat) (b : Bool) : (x.note c n b).cst = x.cst := rfl
@[simp] theorem Die.note_handoffDue (x : Die) (c n : Nat) (b : Bool) : (x.note c n b).handoffDue = x.handoffDue := rfl
@[simp] theorem Die.note_leaveSyncs (x : Die) (c n : Nat) (b : Bool) : (x.note c n b).leaveSyncs = x.leaveSyncs := rfl
@[simp] theorem Die.note_forwarding (x : Die) (c n : Nat) (b : Bool) : (x.note c n b).forwarding = x.forwarding := rfl
@[simp] theorem Die.note_out (x : Die) (c n : Nat) (b : Bool) : (x.note c n b).out = x.out := rfl
@[simp] theorem Die.raise_id (x : Die) (c n : Nat) : (x.raise c n).id = x.id := rfl
@[simp] theorem Die.raise_power (x : Die) (c n : Nat) : (x.raise c n).power = x.power := rfl
@[simp] theorem Die.raise_keep (x : Die) (c n : Nat) : (x.raise c n).keep = x.keep := rfl
@[simp] theorem Die.raise_cclk (x : Die) (c n : Nat) : (x.raise c n).cclk = x.cclk := rfl
@[simp] theorem Die.raise_free (x : Die) (c n : Nat) : (x.raise c n).free = x.free := rfl
@[simp] theorem Die.raise_regs (x : Die) (c n : Nat) : (x.raise c n).regs = x.regs := rfl
@[simp] theorem Die.raise_latch (x : Die) (c n : Nat) : (x.raise c n).latch = x.latch := rfl
@[simp] theorem Die.raise_limits (x : Die) (c n : Nat) : (x.raise c n).limits = x.limits := rfl
@[simp] theorem Die.raise_clk (x : Die) (c n : Nat) : (x.raise c n).clk = x.clk := rfl
@[simp] theorem Die.raise_qphy (x : Die) (c n : Nat) : (x.raise c n).qphy = x.qphy := rfl
@[simp] theorem Die.raise_pcl (x : Die) (c n : Nat) : (x.raise c n).pcl = x.pcl := rfl
@[simp] theorem Die.raise_acd (x : Die) (c n : Nat) : (x.raise c n).acd = x.acd := rfl
@[simp] theorem Die.raise_sti (x : Die) (c n : Nat) : (x.raise c n).sti = x.sti := rfl
@[simp] theorem Die.raise_channels (x : Die) (c n : Nat) : (x.raise c n).channels = x.channels := rfl
@[simp] theorem Die.raise_mem (x : Die) (c n : Nat) : (x.raise c n).mem = x.mem := rfl
@[simp] theorem Die.raise_tmg (x : Die) (c n : Nat) : (x.raise c n).tmg = x.tmg := rfl
@[simp] theorem Die.raise_lyr (x : Die) (c n : Nat) : (x.raise c n).lyr = x.lyr := rfl
@[simp] theorem Die.raise_wear (x : Die) (c n : Nat) : (x.raise c n).wear = x.wear := rfl
@[simp] theorem Die.raise_ldb (x : Die) (c n : Nat) : (x.raise c n).ldb = x.ldb := rfl
@[simp] theorem Die.raise_takeover (x : Die) (c n : Nat) : (x.raise c n).takeover = x.takeover := rfl
@[simp] theorem Die.raise_rects (x : Die) (c n : Nat) : (x.raise c n).rects = x.rects := rfl
@[simp] theorem Die.raise_bltSetters (x : Die) (c n : Nat) : (x.raise c n).bltSetters = x.bltSetters := rfl
@[simp] theorem Die.raise_trim (x : Die) (c n : Nat) : (x.raise c n).trim = x.trim := rfl
@[simp] theorem Die.raise_cst (x : Die) (c n : Nat) : (x.raise c n).cst = x.cst := rfl
@[simp] theorem Die.raise_handoffDue (x : Die) (c n : Nat) : (x.raise c n).handoffDue = x.handoffDue := rfl
@[simp] theorem Die.raise_leaveSyncs (x : Die) (c n : Nat) : (x.raise c n).leaveSyncs = x.leaveSyncs := rfl
@[simp] theorem Die.raise_forwarding (x : Die) (c n : Nat) : (x.raise c n).forwarding = x.forwarding := rfl
@[simp] theorem Die.raise_out (x : Die) (c n : Nat) : (x.raise c n).out = x.out := rfl
@[simp] theorem Die.vector_id (x : Die) (v : Nat) : (x.vector v).id = x.id := rfl
@[simp] theorem Die.vector_power (x : Die) (v : Nat) : (x.vector v).power = x.power := rfl
@[simp] theorem Die.vector_keep (x : Die) (v : Nat) : (x.vector v).keep = x.keep := rfl
@[simp] theorem Die.vector_cclk (x : Die) (v : Nat) : (x.vector v).cclk = x.cclk := rfl
@[simp] theorem Die.vector_free (x : Die) (v : Nat) : (x.vector v).free = x.free := rfl
@[simp] theorem Die.vector_regs (x : Die) (v : Nat) : (x.vector v).regs = x.regs := rfl
@[simp] theorem Die.vector_latch (x : Die) (v : Nat) : (x.vector v).latch = x.latch := rfl
@[simp] theorem Die.vector_limits (x : Die) (v : Nat) : (x.vector v).limits = x.limits := rfl
@[simp] theorem Die.vector_clk (x : Die) (v : Nat) : (x.vector v).clk = x.clk := rfl
@[simp] theorem Die.vector_qphy (x : Die) (v : Nat) : (x.vector v).qphy = x.qphy := rfl
@[simp] theorem Die.vector_pcl (x : Die) (v : Nat) : (x.vector v).pcl = x.pcl := rfl
@[simp] theorem Die.vector_acd (x : Die) (v : Nat) : (x.vector v).acd = x.acd := rfl
@[simp] theorem Die.vector_sti (x : Die) (v : Nat) : (x.vector v).sti = x.sti := rfl
@[simp] theorem Die.vector_channels (x : Die) (v : Nat) : (x.vector v).channels = x.channels := rfl
@[simp] theorem Die.vector_mem (x : Die) (v : Nat) : (x.vector v).mem = x.mem := rfl
@[simp] theorem Die.vector_tmg (x : Die) (v : Nat) : (x.vector v).tmg = x.tmg := rfl
@[simp] theorem Die.vector_lyr (x : Die) (v : Nat) : (x.vector v).lyr = x.lyr := rfl
@[simp] theorem Die.vector_wear (x : Die) (v : Nat) : (x.vector v).wear = x.wear := rfl
@[simp] theorem Die.vector_ldb (x : Die) (v : Nat) : (x.vector v).ldb = x.ldb := rfl
@[simp] theorem Die.vector_takeover (x : Die) (v : Nat) : (x.vector v).takeover = x.takeover := rfl
@[simp] theorem Die.vector_rects (x : Die) (v : Nat) : (x.vector v).rects = x.rects := rfl
@[simp] theorem Die.vector_bltSetters (x : Die) (v : Nat) : (x.vector v).bltSetters = x.bltSetters := rfl
@[simp] theorem Die.vector_trim (x : Die) (v : Nat) : (x.vector v).trim = x.trim := rfl
@[simp] theorem Die.vector_cst (x : Die) (v : Nat) : (x.vector v).cst = x.cst := rfl
@[simp] theorem Die.vector_handoffDue (x : Die) (v : Nat) : (x.vector v).handoffDue = x.handoffDue := rfl
@[simp] theorem Die.vector_leaveSyncs (x : Die) (v : Nat) : (x.vector v).leaveSyncs = x.leaveSyncs := rfl
@[simp] theorem Die.vector_forwarding (x : Die) (v : Nat) : (x.vector v).forwarding = x.forwarding := rfl
@[simp] theorem Die.vector_out (x : Die) (v : Nat) : (x.vector v).out = x.out := rfl

end Sys2Proof.Machine
end

