-- ==== Sys2Proof/Laws/Memory.lean ====
section
/-! SUPPORT. The sparse maps: the canonical form is kept by every operation, a read after a write gives what was written, and a
write leaves every other key alone. -/

namespace Sys2Proof.Machine

variable {α : Type}

/-- Every key of the list is above `k`. -/
def above (k : Nat) (m : List (Nat × α)) : Prop := ∀ p ∈ m, k < p.1

theorem smWf_cons [DecidableEq α] (d : Nat → α) (p : Nat × α) (m : List (Nat × α)) :
    smWf d (p :: m) = true ↔ p.2 ≠ d p.1 ∧ above p.1 m ∧ smWf d m = true := by
  induction m generalizing p with
  | nil => simp [smWf, above]
  | cons q t ih =>
    simp only [smWf, Bool.and_eq_true, decide_eq_true_eq, above, List.mem_cons, forall_eq_or_imp]
    constructor
    · rintro ⟨⟨h1, h2⟩, h3⟩
      have := (ih q).1 h3
      exact ⟨h1, ⟨h2, fun r hr => Nat.lt_trans h2 (this.2.1 r hr)⟩, h3⟩
    · rintro ⟨h1, ⟨h2, _⟩, h3⟩
      exact ⟨⟨h1, h2⟩, h3⟩

theorem above_filter {k : Nat} {m : List (Nat × α)} (h : above k m) (q : Nat × α → Bool) : above k (m.filter q) :=
  fun p hp => h p (List.mem_of_mem_filter hp)

theorem smWf_filter [DecidableEq α] (d : Nat → α) (q : Nat × α → Bool) {m : List (Nat × α)} (h : smWf d m = true) :
    smWf d (m.filter q) = true := by
  induction m with
  | nil => rfl
  | cons p t ih =>
    have h := (smWf_cons d p t).1 h
    rw [List.filter_cons]
    split
    · exact (smWf_cons d p _).2 ⟨h.1, above_filter h.2.1 q, ih h.2.2⟩
    · exact ih h.2.2

theorem mem_smInsert (m : List (Nat × α)) (k : Nat) (v : α) (p : Nat × α) :
    p ∈ smInsert m k v ↔ p = (k, v) ∨ p ∈ m := by
  induction m with
  | nil => simp [smInsert]
  | cons q t ih =>
    simp only [smInsert]
    split
    · simp
    · simp only [List.mem_cons, ih]; tauto

theorem smWf_insert [DecidableEq α] (d : Nat → α) {m : List (Nat × α)} (k : Nat) (v : α) (h : smWf d m = true) (hk : ∀ p ∈ m, p.1 ≠ k)
    (hv : v ≠ d k) : smWf d (smInsert m k v) = true := by
  induction m with
  | nil => simp [smInsert, smWf, hv]
  | cons p t ih =>
    have h' := (smWf_cons d p t).1 h
    simp only [smInsert]
    split
    · rename_i hlt
      refine (smWf_cons d _ _).2 ⟨hv, ?_, h⟩
      intro q hq
      rcases List.mem_cons.1 hq with rfl | hq
      · exact hlt
      · exact Nat.lt_trans hlt (h'.2.1 q hq)
    · rename_i hge
      have hp : p.1 < k := Nat.lt_of_le_of_ne (Nat.le_of_not_lt hge) (hk p (by simp))
      refine (smWf_cons d _ _).2 ⟨h'.1, ?_, ih h'.2.2 fun q hq => hk q (by simp [hq])⟩
      intro q hq
      rcases (mem_smInsert t k v q).1 hq with rfl | hq
      · exact hp
      · exact h'.2.1 q hq

/-- A write keeps the canonical form. -/
theorem smSet_wf [DecidableEq α] (d : Nat → α) {m : List (Nat × α)} (k : Nat) (v : α) (h : smWf d m = true) :
    smWf d (smSet d m k v) = true := by
  unfold smSet
  dsimp only
  split
  · exact smWf_filter d _ h
  · rename_i hv
    refine smWf_insert d k v (smWf_filter d _ h) ?_ hv
    intro p hp
    simpa using (List.mem_filter.1 hp).2

theorem find_smInsert_self (m : List (Nat × α)) (k : Nat) (v : α) (h : ∀ p ∈ m, p.1 ≠ k) :
    (smInsert m k v).find? (·.1 == k) = some (k, v) := by
  induction m with
  | nil => simp [smInsert]
  | cons p t ih =>
    simp only [smInsert]
    split
    · simp
    · have hp : p.1 ≠ k := h p (by simp)
      rw [List.find?_cons_of_neg (by simpa using hp)]
      exact ih fun q hq => h q (by simp [hq])

theorem find_smInsert_other (m : List (Nat × α)) (k j : Nat) (v : α) (hj : j ≠ k) :
    (smInsert m k v).find? (·.1 == j) = m.find? (·.1 == j) := by
  induction m with
  | nil => simp [smInsert, Ne.symm hj]
  | cons p t ih =>
    simp only [smInsert]
    split
    · rw [List.find?_cons_of_neg (by simpa using Ne.symm hj)]
    · simp only [List.find?_cons, ih]

theorem find_filter_self (m : List (Nat × α)) (k : Nat) : (m.filter (·.1 != k)).find? (·.1 == k) = none := by
  rw [List.find?_eq_none]
  intro p hp
  simpa using (List.mem_filter.1 hp).2

theorem find_filter_other (m : List (Nat × α)) (k j : Nat) (hj : j ≠ k) :
    (m.filter (·.1 != k)).find? (·.1 == j) = m.find? (·.1 == j) := by
  induction m with
  | nil => rfl
  | cons p t ih =>
    rw [List.filter_cons]
    split
    · simp only [List.find?_cons, ih]
    · rename_i h
      have : p.1 = k := by simpa using h
      rw [ih, List.find?_cons_of_neg (by simpa [this] using Ne.symm hj)]

/-- A read after a write of the same key gives what was written. -/
theorem smGet_smSet_self [DecidableEq α] (d : Nat → α) (m : List (Nat × α)) (k : Nat) (v : α) : smGet d (smSet d m k v) k = v := by
  unfold smGet smSet
  dsimp only
  split
  · rename_i h
    rw [find_filter_self, h]; rfl
  · rw [find_smInsert_self]
    · rfl
    · intro p hp
      simpa using (List.mem_filter.1 hp).2

/-- A write leaves every other key alone. -/
theorem smGet_smSet_other [DecidableEq α] (d : Nat → α) (m : List (Nat × α)) (k j : Nat) (v : α) (hj : j ≠ k) :
    smGet d (smSet d m k v) j = smGet d m j := by
  unfold smGet smSet
  dsimp only
  split
  · rw [find_filter_other _ _ _ hj]
  · rw [find_smInsert_other _ _ _ _ hj, find_filter_other _ _ _ hj]

/-- A write of a key that `q` drops is not seen in what `q` keeps. -/
theorem filter_smInsert (q : Nat → Bool) (m : List (Nat × α)) (k : Nat) (v : α) (hk : q k = false) :
    (smInsert m k v).filter (fun p => q p.1) = m.filter (fun p => q p.1) := by
  induction m with
  | nil => simp [smInsert, hk]
  | cons p t ih =>
    simp only [smInsert]
    split
    · simp [List.filter_cons, hk]
    · simp [List.filter_cons, ih]

theorem filter_smSet [DecidableEq α] (d : Nat → α) (q : Nat → Bool) (m : List (Nat × α)) (k : Nat) (v : α) (hk : q k = false) :
    (smSet d m k v).filter (fun p => q p.1) = m.filter (fun p => q p.1) := by
  have h : (m.filter (·.1 != k)).filter (fun p => q p.1) = m.filter (fun p => q p.1) := by
    rw [List.filter_filter]
    refine List.filter_congr fun p _ => ?_
    by_cases hp : p.1 = k <;> simp [hp, hk]
  unfold smSet
  dsimp only
  split
  · exact h
  · rw [filter_smInsert q _ _ _ hk, h]

/-- One byte written keeps the canonical form of a memory. -/
theorem Memory.write_wf (v0 : Byte) {m : List Host.Cell} (a : Nat) (v : Byte) (h : Memory.wf v0 m = true) :
    Memory.wf v0 (Memory.write v0 m a v) = true := smSet_wf _ a v h

/-- Bytes written keep the canonical form of a memory. -/
theorem Memory.writeN_wf (v0 : Byte) (bs : List Byte) {m : List Host.Cell} (a : Nat) (h : Memory.wf v0 m = true) :
    Memory.wf v0 (Memory.writeN v0 m a bs) = true := by
  induction bs generalizing m a with
  | nil => exact h
  | cons b t ih => exact ih _ (Memory.write_wf v0 a b h)

/-- Taking entries away keeps the canonical form of a memory. -/
theorem Memory.filter_wf (v0 : Byte) (q : Host.Cell → Bool) {m : List Host.Cell} (h : Memory.wf v0 m = true) :
    Memory.wf v0 (m.filter q) = true := smWf_filter _ q h

theorem Memory.read_write_self (v0 : Byte) (m : List Host.Cell) (a : Nat) (v : Byte) :
    Memory.read v0 (Memory.write v0 m a v) a = v := smGet_smSet_self _ m a v

theorem Memory.read_write_other (v0 : Byte) (m : List Host.Cell) (a b : Nat) (v : Byte) (h : b ≠ a) :
    Memory.read v0 (Memory.write v0 m a v) b = Memory.read v0 m b := smGet_smSet_other _ m a b v h

/-- A byte outside the bytes written reads as before. -/
theorem Memory.read_writeN_outside (v0 : Byte) (bs : List Byte) (m : List Host.Cell) (a b : Nat)
    (h : b < a ∨ a + bs.length ≤ b) : Memory.read v0 (Memory.writeN v0 m a bs) b = Memory.read v0 m b := by
  induction bs generalizing m a with
  | nil => rfl
  | cons c t ih =>
    simp only [List.length_cons] at h
    rw [Memory.writeN, ih _ _ (by omega), Memory.read_write_other _ _ _ _ _ (by omega)]

/-- A byte inside the bytes written reads as the byte written there. -/
theorem Memory.read_writeN_inside (v0 : Byte) (bs : List Byte) (m : List Host.Cell) (a i : Nat) (h : i < bs.length) :
    Memory.read v0 (Memory.writeN v0 m a bs) (a + i) = bs.getD i 0 := by
  induction bs generalizing m a i with
  | nil => simp at h
  | cons c t ih =>
    rw [Memory.writeN]
    cases i with
    | zero =>
      rw [Memory.read_writeN_outside _ _ _ _ _ (by omega)]
      simpa using Memory.read_write_self v0 m a c
    | succ j =>
      have h1 : j < t.length := by simpa using h
      have := ih (Memory.write v0 m a c) (a + 1) j h1
      rw [show a + (j + 1) = a + 1 + j by omega, this]
      simp

/-- The write of a register, of bytes or of an erased block keeps every memory of the die in canonical form. -/
theorem Die.poke_wf (x : Die) (dram : Bool) (a : Nat) (bs : List Byte) (h1 : Memory.wf 0 x.mem.scratch = true)
    (h2 : Memory.wf 0 x.mem.dram = true) :
    Memory.wf 0 (x.poke dram a bs).mem.scratch = true ∧ Memory.wf 0 (x.poke dram a bs).mem.dram = true := by
  cases dram
  · exact ⟨Memory.writeN_wf 0 bs a h1, h2⟩
  · exact ⟨h1, Memory.writeN_wf 0 bs a h2⟩

theorem Die.setReg_wf (x : Die) (off : Nat) (v : Word) (h : smWf (resetVal x.id) x.regs = true) :
    smWf (resetVal x.id) (x.setReg off v).regs = true := smSet_wf _ off v h

theorem Die.flashWrite_wf (x : Die) (a : Nat) (bs : List Byte) (h : Memory.wf 0xFF x.cst.flash = true) :
    Memory.wf 0xFF (x.flashWrite a bs).cst.flash = true := Memory.writeN_wf 0xFF bs a h

theorem Die.flashErase_wf (x : Die) (b : Nat) (h : Memory.wf 0xFF x.cst.flash = true) :
    Memory.wf 0xFF (x.flashErase b).cst.flash = true := Memory.filter_wf 0xFF _ h

/-- The memories of reset are in canonical form. -/
theorem reset_memories_wf (d : DieId) :
    Memory.wf 0 (Die.reset d).mem.scratch = true ∧ Memory.wf 0 (Die.reset d).mem.dram = true ∧
      Memory.wf 0xFF (Die.reset d).cst.flash = true ∧ smWf (resetVal d) (Die.reset d).regs = true := ⟨rfl, rfl, rfl, rfl⟩

end Sys2Proof.Machine
end

