-- ==== Sys2Proof/Laws/Frame.lean ====
section
/-! SUPPORT. What the end of a command does to a die (`Die.finish`): nothing but its reports. -/

namespace Sys2Proof.Machine

/-- Two dies are the same but for reports when their state beside registers is, and every other register holds the same. -/
theorem core_ext {x y : Die} (h : ({ x with regs := [], limits := [], hif := x.hif.core, out := [] } : Die) =
    { y with regs := [], limits := [], hif := y.hif.core, out := [] }) (hr : ∀ k, isReport k = false → x.reg k = y.reg k) :
    x.core = y.core := by
  refine Prod.ext h (funext fun k => ?_)
  simp only [Die.core]
  split
  · rfl
  · exact hr k (by simpa using ‹¬ isReport k = true›)

theorem reg_setReg (x : Die) (off : Nat) (v : Word) : (x.setReg off v).reg off = v := smGet_smSet_self _ _ _ _

theorem smGet_setReg_ne (x : Die) (off k : Nat) (v : Word) (h : k ≠ off) : (x.setReg off v).reg k = x.reg k :=
  smGet_smSet_other _ _ _ _ _ h

/-- What holds of registers that are no reports. -/
theorem reg_of_core {x y : Die} (h : x.core = y.core) {k : Nat} (hk : isReport k = false) : x.reg k = y.reg k := by
  have := congrFun (congrArg Prod.snd h) k
  simpa [Die.core, hk] using this

theorem get_of_core {x y : Die} (h : x.core = y.core) (f : F) (hf : isReport f.off = false) : x.get f = y.get f := by
  simp only [Die.get, reg_of_core h hf]

theorem on_of_core {x y : Die} (h : x.core = y.core) (f : F) (hf : isReport f.off = false) : x.on f = y.on f := by
  simp only [Die.on, get_of_core h f hf]

/-- The state of the blocks beside their registers. -/
theorem rest_of_core {x y : Die} (h : x.core = y.core) :
    ({ x with regs := [], limits := [], hif := x.hif.core, out := [] } : Die) =
      { y with regs := [], limits := [], hif := y.hif.core, out := [] } := congrArg Prod.fst h

/-- Fields the reports are kept in. -/
theorem core_setReg (x : Die) (off : Nat) (v : Word) (h : isReport off = true) : (x.setReg off v).core = x.core :=
  core_ext rfl fun k hk => smGet_setReg_ne x off k v fun e => by rw [e, h] at hk; cases hk

/-- A register is written alike in dies that are the same but for reports. -/
theorem core_setReg_congr {x y : Die} (h : x.core = y.core) (off : Nat) (v : Word) :
    (x.setReg off v).core = (y.setReg off v).core := by
  have hr := rest_of_core h
  refine core_ext hr fun k hk => ?_
  by_cases e : k = off
  · subst e; rw [reg_setReg, reg_setReg]
  · rw [smGet_setReg_ne x off k v e, smGet_setReg_ne y off k v e, reg_of_core h hk]

theorem core_put_congr {x y : Die} (h : x.core = y.core) (f : F) (n : Nat) : (x.put f n).core = (y.put f n).core := by
  by_cases e : isReport f.off = true
  · exact (core_setReg x _ _ e).trans (h.trans (core_setReg y _ _ e).symm)
  · rw [Bool.not_eq_true] at e
    unfold Die.put
    rw [reg_of_core h e]
    exact core_setReg_congr h _ _

theorem core_flag_congr {x y : Die} (h : x.core = y.core) (f : F) (b : Bool) : (x.flag f b).core = (y.flag f b).core :=
  core_put_congr h f _

theorem core_bump_congr {x y : Die} (h : x.core = y.core) (f : F) (k : Nat) (hf : isReport f.off = false) :
    (x.bump f k).core = (y.bump f k).core := by
  unfold Die.bump
  rw [get_of_core h f hf]
  exact core_put_congr h f _

theorem core_put (x : Die) (f : F) (n : Nat) (h : isReport f.off = true) : (x.put f n).core = x.core := core_setReg x _ _ h
theorem core_flag (x : Die) (f : F) (b : Bool) (h : isReport f.off = true) : (x.flag f b).core = x.core := core_setReg x _ _ h
theorem core_bump (x : Die) (f : F) (k : Nat) (h : isReport f.off = true) : (x.bump f k).core = x.core := core_setReg x _ _ h

@[simp] theorem core_emit (x : Die) (o : Out) : (x.emit o).core = x.core := rfl
@[simp] theorem core_note (x : Die) (c n : Nat) (b : Bool) : (x.note c n b).core = x.core := rfl
@[simp] theorem core_raise (x : Die) (c n : Nat) : (x.raise c n).core = x.core := rfl
@[simp] theorem core_vector (x : Die) (v : Nat) : (x.vector v).core = x.core := rfl

/-- Transport fields of the host interface do not count. -/
theorem core_hif (x : Die) (h : Hif) (e : h.core = x.hif.core) : ({ x with hif := h } : Die).core = x.core := by
  refine core_ext ?_ fun k _ => rfl
  simp only [e]

theorem core_writeEvent (x : Die) (e : Event) : (x.writeEvent e).core = x.core := by
  unfold Die.writeEvent
  simp only [core_vector]
  exact (core_hif _ _ rfl).trans (core_put _ _ _ rfl)

theorem core_dropEvent (x : Die) (e : Event) : (x.dropEvent e).core = x.core := by
  unfold Die.dropEvent
  split
  · exact (core_vector _ _).trans ((core_bump _ _ _ rfl).trans (core_put _ _ _ rfl))
  · exact core_bump _ _ _ rfl

theorem core_deliver (x : Die) (e : Event) : (x.deliver e).core = x.core := by
  unfold Die.deliver
  split
  · split
    · exact core_hif _ _ rfl
    · exact (core_hif (x.dropEvent e) _ rfl).trans (core_dropEvent x e)
  · split
    · exact core_writeEvent x e
    · exact (core_hif ((x.dropEvent e).flag F.evtFull true) _ rfl).trans ((core_flag _ _ _ rfl).trans (core_dropEvent x e))

/-- The sixteen EVT_RAISED registers are reports. -/
theorem isReport_raised (code : Nat) : isReport (F.evtRaised (code / 16 % 16)).off = true := by
  have h1 : 0x7840 ≤ 0x7840 + 0x4 * (code / 16 % 16) := by omega
  have h2 : 0x7840 + 0x4 * (code / 16 % 16) < 0x7880 := by omega
  simp only [isReport, F.evtRaised, h1, h2, decide_true, Bool.and_self, Bool.or_true]

theorem core_noteEvent (x : Die) (code detail : Nat) : (x.noteEvent code detail).core = x.core :=
  (core_bump _ _ _ (isReport_raised code)).trans ((core_put _ _ _ rfl).trans ((core_put _ _ _ rfl).trans (core_put _ _ _ rfl)))

theorem core_raiseNow (x : Die) (code detail : Nat) (entry : Bool) : (x.raiseNow code detail entry).core = x.core := by
  unfold Die.raiseNow
  dsimp only
  split
  · exact core_noteEvent x code detail
  · exact (core_deliver _ _).trans (core_noteEvent x code detail)

theorem core_raiseAll (x : Die) : x.raiseAll.core = x.core := by
  have h : ∀ (rs : List (Nat × Nat × Bool)) (y : Die),
      (rs.foldl (fun x r => x.raiseNow r.1 r.2.1 r.2.2) y).core = y.core := by
    intro rs
    induction rs with
    | nil => intro y; rfl
    | cons r t ih => intro y; exact (ih _).trans (core_raiseNow y _ _ _)
  unfold Die.raiseAll
  exact (h _ _).trans (core_hif _ _ rfl)

theorem core_sendVector (x : Die) (v : Nat) : (x.sendVector v).core = x.core := by
  unfold Die.sendVector
  dsimp only
  split
  · exact core_hif _ _ rfl
  · rw [core_emit]
    split
    · rfl
    · exact core_hif _ _ rfl

theorem core_occur (x : Die) (v : Nat) : (x.occur v).core = x.core := by
  unfold Die.occur
  split
  · exact core_hif _ _ rfl
  · exact core_sendVector x v

theorem core_occurs (vs : List Nat) (x : Die) :
    (vs.foldl (fun x v => if x.hif.logging then x else x.occur v) x).core = x.core := by
  induction vs generalizing x with
  | nil => rfl
  | cons v t ih =>
    rw [List.foldl_cons, ih]
    split
    · rfl
    · exact core_occur x v

theorem core_writeStatus (x : Die) : x.writeStatus.core = x.core := by
  unfold Die.writeStatus
  split
  · exact core_hif _ _ rfl
  · exact (core_hif _ _ rfl).trans (core_emit _ _)

/-- The end of a command touches nothing but the die's reports. -/
theorem core_finish (old x : Die) : (Die.finish old x).core = x.core := by
  have h : ∀ c : Bool, (if c then x.raiseAll.writeStatus else x.raiseAll).core = x.core := by
    intro c
    cases c
    · exact core_raiseAll x
    · exact (core_writeStatus _).trans (core_raiseAll x)
  unfold Die.finish
  dsimp only
  rw [core_occurs]
  exact (core_hif _ _ rfl).trans (h _)

theorem core_raiseLim (x : Die) (p k c n : Nat) : (x.raiseLim p k c n).core = x.core := by
  unfold Die.raiseLim
  split
  · split <;> rfl
  · rfl

theorem core_noteFull (x : Die) : x.noteFull.core = x.core := by
  unfold Die.noteFull
  split
  · rfl
  · exact core_flag _ _ _ rfl

theorem core_writeCompletion (x : Die) (d : Done) : (x.writeCompletion d).core = x.core := by
  unfold Die.writeCompletion
  dsimp only
  split
  · refine (core_vector _ _).trans ((core_noteFull _).trans ((core_hif _ _ rfl).trans ((core_put _ _ _ rfl).trans (core_emit _ _))))
  · exact (core_noteFull _).trans ((core_hif _ _ rfl).trans ((core_put _ _ _ rfl).trans (core_emit _ _)))

theorem core_stall (x : Die) : x.stall.core = x.core := by
  unfold Die.stall
  dsimp only
  split
  · exact core_flag _ _ _ rfl
  · exact (core_raise _ _ _).trans ((core_hif _ _ rfl).trans (core_flag _ _ _ rfl))

/-- A completion touches nothing but the die's reports. -/
theorem core_complete (x : Die) (c : Cmd) (st n : Nat) : (x.complete c st n).core = x.core := by
  unfold Die.complete
  split
  · rfl
  · split
    · exact core_writeCompletion _ _
    · dsimp only
      split
      · exact core_hif _ _ rfl
      · exact (core_stall _).trans (core_hif _ _ rfl)

theorem core_completeOpt (x : Die) (c : Option Cmd) (st n : Nat) : (x.completeOpt c st n).core = x.core := by
  cases c
  · rfl
  · exact core_complete x _ st n

theorem core_completeJob (x : Die) (j : Job) (st n : Nat) : (x.completeJob j st n).core = x.core := by
  unfold Die.completeJob
  split
  · exact core_complete x _ st n
  · rfl

theorem core_flushBad (n : Nat) (x : Die) : (Die.flushBad n x).core = x.core := by
  induction n generalizing x with
  | zero => rfl
  | succ n ih =>
    unfold Die.flushBad
    split
    · split
      · exact (ih _).trans ((core_complete _ _ _ _).trans ((core_raise _ _ _).trans (core_hif _ _ rfl)))
      · rfl
    · rfl

theorem core_flush (x : Die) : x.flush.core = x.core := core_flushBad _ x

theorem core_fetchMore (x : Die) : x.fetchMore.core = x.core := by
  unfold Die.fetchMore
  dsimp only
  split
  · exact (core_emit _ _).trans (core_hif _ _ rfl)
  · rfl

theorem core_popHead (x : Die) : x.popHead.core = x.core := core_hif _ _ rfl

end Sys2Proof.Machine
end

