-- ==== Sys2Proof/Laws/OnDie.lean ====
section
/-! SUPPORT. The frames in which every meaning stands: what a command at one die does (`Does`), raises (`Raises`) and puts out
(`Emits`), from what its meaning computes. -/

namespace Sys2Proof.Machine

theorem setDie_die (s : State) (d : DieId) (x : Die) : (s.setDie d x).die d = x := by cases d <;> rfl
theorem setDie_other (s : State) (d : DieId) (x : Die) : (s.setDie d x).die d.other = s.die d.other := by cases d <;> rfl
@[simp] theorem setDie_mod (s : State) (d : DieId) (x : Die) : (s.setDie d x).mod = s.mod := by cases d <;> rfl
@[simp] theorem setDie_pending (s : State) (d : DieId) (x : Die) : (s.setDie d x).pending = s.pending := by cases d <;> rfl

/-- What `onDie` answers while the dies run. -/
theorem onDie_up (s : State) (d : DieId) (f : Ctx → Die → Die) (h : s.mod.runs = true) :
    onDie s d f = .next (s.setDie d ((s.at d).finish (f (s.ctx d) (s.at d)))) := by
  unfold onDie
  simp only [h, if_true]
  rfl

/-- A meaning computes what its command does. -/
theorem does_of {s : State} {c : Instr} {d : DieId} {f : Ctx → Die → Die} {y : Die} (h : s.Up d) (e : exec c s = onDie s d f)
    (hy : (f (s.ctx d) (s.at d)).core = y.core) : Does s c d y := by
  refine ⟨_, e.trans (onDie_up s d f h.1), setDie_mod .., setDie_pending .., setDie_other .., ?_⟩
  rw [setDie_die, core_finish, hy]

theorem reg_put_ne (x : Die) (f : F) (n k : Nat) (h : k ≠ f.off) : (x.put f n).reg k = x.reg k := smGet_setReg_ne x _ _ _ h
theorem reg_flag_ne (x : Die) (f : F) (b : Bool) (k : Nat) (h : k ≠ f.off) : (x.flag f b).reg k = x.reg k := smGet_setReg_ne x _ _ _ h
theorem reg_bump_ne (x : Die) (f : F) (n k : Nat) (h : k ≠ f.off) : (x.bump f n).reg k = x.reg k := smGet_setReg_ne x _ _ _ h

/-- EVT_LAST and EVT_LAST_DETAIL. -/
def isLast (k : Nat) : Prop := k = 0x7820 ∨ k = 0x7824

theorem last_writeEvent (x : Die) (e : Event) (k : Nat) (hk : isLast k) : (x.writeEvent e).reg k = x.reg k := by
  have h : k ≠ 0x2048 := by rcases hk with rfl | rfl <;> decide
  exact (reg_put_ne (x.emit _) F.evtSeq _ k h)

theorem last_dropEvent (x : Die) (e : Event) (k : Nat) (hk : isLast k) : (x.dropEvent e).reg k = x.reg k := by
  unfold Die.dropEvent
  split
  · exact (reg_bump_ne _ F.stickyCount _ k (by rcases hk with rfl | rfl <;> decide)).trans
      (reg_put_ne _ F.stickyRanges _ k (by rcases hk with rfl | rfl <;> decide))
  · exact reg_bump_ne _ F.evtDrop _ k (by rcases hk with rfl | rfl <;> decide)

theorem last_deliver (x : Die) (e : Event) (k : Nat) (hk : isLast k) : (x.deliver e).reg k = x.reg k := by
  unfold Die.deliver
  split
  · split
    · rfl
    · exact last_dropEvent x e k hk
  · split
    · exact last_writeEvent x e k hk
    · exact (reg_flag_ne (x.dropEvent e) F.evtFull true k (by rcases hk with rfl | rfl <;> decide)).trans (last_dropEvent x e k hk)

theorem reg_sendVector (x : Die) (v k : Nat) : (x.sendVector v).reg k = x.reg k := by
  unfold Die.sendVector
  dsimp only
  split
  · rfl
  · split <;> rfl

theorem reg_occur (x : Die) (v k : Nat) : (x.occur v).reg k = x.reg k := by
  unfold Die.occur
  split
  · rfl
  · exact reg_sendVector x v k

theorem reg_occurs (vs : List Nat) (x : Die) (k : Nat) :
    (vs.foldl (fun x v => if x.hif.logging then x else x.occur v) x).reg k = x.reg k := by
  induction vs generalizing x with
  | nil => rfl
  | cons v t ih =>
    rw [List.foldl_cons, ih]
    split
    · rfl
    · exact reg_occur x v k

theorem reg_writeStatus (x : Die) (k : Nat) : x.writeStatus.reg k = x.reg k := by
  unfold Die.writeStatus
  split <;> rfl

/-- The end of a command changes registers by its raises alone. -/
theorem reg_finish (old x : Die) (k : Nat) : (Die.finish old x).reg k = x.raiseAll.reg k := by
  unfold Die.finish
  dsimp only
  rw [reg_occurs]
  have h : ∀ c : Bool, (if c then x.raiseAll.writeStatus else x.raiseAll).reg k = x.raiseAll.reg k := by
    intro c
    cases c
    · rfl
    · exact reg_writeStatus _ k
  exact h _

/-- The die as its only raise takes effect. -/
theorem raiseAll_one (x : Die) (code detail : Nat) (b : Bool) (h : x.hif.raised = [(code, detail, b)]) :
    x.raiseAll = { x with hif := { x.hif with raised := [] } }.raiseNow code detail b := by
  unfold Die.raiseAll
  rw [h]
  rfl

theorem bits_le {v lo w : Nat} : bits v lo w < 2 ^ w := Nat.mod_lt _ (Nat.two_pow_pos w)

end Sys2Proof.Machine
end

