-- ==== Sys2Proof/Laws/Fields.lean ====
section
/-! SUPPORT. Fields of registers: reading back what was put, and leaving every other field alone. -/

namespace Sys2Proof.Machine

theorem testBit_bits (v lo w i : Nat) : (bits v lo w).testBit i = (decide (i < w) && v.testBit (lo + i)) := by
  simp only [bits, Nat.testBit_mod_two_pow, Nat.testBit_div_two_pow, Nat.add_comm]

/-- Bits of a word after a field has been set. -/
theorem testBit_setBits (v : Word) (lo w n i : Nat) (h : lo + w ≤ 32) :
    (setBits v lo w n).toNat.testBit i =
      if lo ≤ i ∧ i < lo + w then n.testBit (i - lo) else v.toNat.testBit i := by
  have hv : v.toNat.testBit i = (decide (i < 32) && v.toNat.testBit i) := by
    by_cases hi : i < 32
    · simp [hi]
    · have := v.isLt
      simp [hi, Nat.testBit_lt_two_pow (Nat.lt_of_lt_of_le this (Nat.pow_le_pow_right (by decide) (Nat.le_of_not_lt hi)))]
  simp only [setBits, BitVec.toNat_or, BitVec.toNat_and, BitVec.toNat_not, BitVec.toNat_ofNat, Nat.testBit_or, Nat.testBit_and]
  have e1 : (2 ^ 32 - 1 - (2 ^ w - 1) * 2 ^ lo % 2 ^ 32).testBit i =
      (decide (i < 32) && !((2 ^ w - 1) * 2 ^ lo % 2 ^ 32).testBit i) := by
    have hlt : (2 ^ w - 1) * 2 ^ lo % 2 ^ 32 < 2 ^ 32 := Nat.mod_lt _ (by decide)
    rw [show 2 ^ 32 - 1 - (2 ^ w - 1) * 2 ^ lo % 2 ^ 32 = 2 ^ 32 - ((2 ^ w - 1) * 2 ^ lo % 2 ^ 32 + 1) by omega]
    exact Nat.testBit_two_pow_sub_succ hlt i
  rw [e1]
  simp only [Nat.testBit_mod_two_pow, Nat.mul_comm _ (2 ^ lo), Nat.testBit_two_pow_mul, Nat.testBit_two_pow_sub_one]
  rw [hv]
  by_cases hin : lo ≤ i ∧ i < lo + w
  · have h3 : i < 32 := by omega
    have h4 : i - lo < w := by omega
    simp [hin, h3, h4]
  · rw [if_neg hin]
    rcases Nat.lt_or_ge i lo with h1 | h1
    · have : ¬ lo ≤ i := by omega
      simp [this]; exact fun h _ => h
    · have : ¬ i - lo < w := by omega
      simp [this]; exact fun h _ => h

/-- A field reads as it was put, modulo its width. -/
theorem get_put_self (x : Die) (f : F) (n : Nat) (h : f.lo + f.width ≤ 32) : (x.put f n).get f = n % 2 ^ f.width := by
  refine Nat.eq_of_testBit_eq fun i => ?_
  simp only [Die.get, Die.put, reg_setReg, testBit_bits, testBit_setBits _ _ _ _ _ h, Nat.testBit_mod_two_pow]
  by_cases hi : i < f.width
  · simp [hi]
  · simp [hi]

/-- A field of another register, or of other bits, is left alone. -/
theorem get_put_other (x : Die) (f g : F) (n : Nat) (h : f.lo + f.width ≤ 32)
    (hd : g.off ≠ f.off ∨ g.lo + g.width ≤ f.lo ∨ f.lo + f.width ≤ g.lo) : (x.put f n).get g = x.get g := by
  by_cases ho : g.off = f.off
  · have hd : g.lo + g.width ≤ f.lo ∨ f.lo + f.width ≤ g.lo := by
      rcases hd with hd | hd
      · exact absurd ho hd
      · exact hd
    refine Nat.eq_of_testBit_eq fun i => ?_
    simp only [Die.get, Die.put, ho, reg_setReg, testBit_bits, testBit_setBits _ _ _ _ _ h]
    by_cases hi : i < g.width
    · rw [if_neg (by omega)]
    · simp [hi]
  · simp only [Die.get, reg_put_ne x f n _ ho]

theorem on_flag_self (x : Die) (f : F) (b : Bool) (h : f.lo + 1 ≤ 32) (hw : f.width = 1) : (x.flag f b).on f = b := by
  have := get_put_self x f (b2n b) (by omega)
  simp only [Die.on, Die.flag, this, hw]
  cases b <;> rfl

theorem on_flag_other (x : Die) (f g : F) (b : Bool) (h : f.lo + f.width ≤ 32)
    (hd : g.off ≠ f.off ∨ g.lo + g.width ≤ f.lo ∨ f.lo + f.width ≤ g.lo) : (x.flag f b).on g = x.on g := by
  simp only [Die.on, Die.flag, get_put_other x f g _ h hd]

/-- EVT_LAST and EVT_LAST_DETAIL after a raise. -/
theorem last_raiseNow (x : Die) (code detail : Nat) (b : Bool) (h : code < 256) :
    (x.raiseNow code detail b).get F.evtCode = code ∧ (x.raiseNow code detail b).get F.evtDetail = detail % 2 ^ 32 := by
  have hr : ∀ k, isLast k → (x.raiseNow code detail b).reg k = (x.noteEvent code detail).reg k := by
    intro k hk
    unfold Die.raiseNow
    dsimp only
    split
    · rfl
    · exact last_deliver _ _ k hk
  have hb : ∀ k, isLast k → k ≠ (F.evtRaised (code / 16 % 16)).off := by
    intro k hk
    have : (F.evtRaised (code / 16 % 16)).off = 0x7840 + 0x4 * (code / 16 % 16) := rfl
    rcases hk with rfl | rfl <;> omega
  constructor
  · have e : (x.raiseNow code detail b).get F.evtCode =
        (((x.put F.evtCode code).put F.evtSev (severity code)).put F.evtDetail detail).get F.evtCode := by
      simp only [Die.get]
      rw [hr F.evtCode.off (Or.inl rfl)]
      exact congrArg (fun r : Word => bits r.toNat F.evtCode.lo F.evtCode.width) (reg_bump_ne _ _ _ _ (hb _ (Or.inl rfl)))
    rw [e, get_put_other _ _ _ _ (by decide) (Or.inl (by decide)),
      get_put_other _ _ _ _ (by decide) (Or.inr (Or.inl (by decide))), get_put_self _ _ _ (by decide)]
    exact Nat.mod_eq_of_lt h
  · have e : (x.raiseNow code detail b).get F.evtDetail =
        (((x.put F.evtCode code).put F.evtSev (severity code)).put F.evtDetail detail).get F.evtDetail := by
      simp only [Die.get]
      rw [hr F.evtDetail.off (Or.inr rfl)]
      exact congrArg (fun r : Word => bits r.toNat F.evtDetail.lo F.evtDetail.width) (reg_bump_ne _ _ _ _ (hb _ (Or.inr rfl)))
    rw [e, get_put_self _ _ _ (by decide)]
    rfl

/-- A meaning's only raise is what EVT_LAST shows. -/
theorem raises_of {s : State} {c : Instr} {d : DieId} {f : Ctx → Die → Die} {code detail : Nat} {b : Bool} (h : s.Up d)
    (e : exec c s = onDie s d f) (hc : code < 256) (hr : (f (s.ctx d) (s.at d)).hif.raised = [(code, detail, b)]) :
    Raises s c d code detail := by
  refine ⟨_, e.trans (onDie_up s d f h.1), ?_⟩
  rw [setDie_die]
  have hl := last_raiseNow { f (s.ctx d) (s.at d) with hif := { (f (s.ctx d) (s.at d)).hif with raised := [] } } code detail b hc
  simp only [Die.get, reg_finish, raiseAll_one _ _ _ _ hr] at hl ⊢
  exact hl

theorem out_writeEvent (x : Die) (e : Event) (o : Out) (h : o ∈ x.out) : o ∈ (x.writeEvent e).out :=
  List.mem_append_left _ h

theorem out_deliver (x : Die) (e : Event) (o : Out) (h : o ∈ x.out) : o ∈ (x.deliver e).out := by
  unfold Die.deliver
  have hd : (x.dropEvent e).out = x.out := by unfold Die.dropEvent; split <;> rfl
  split
  · split
    · exact h
    · simpa [hd] using h
  · split
    · exact out_writeEvent x e o h
    · simpa [hd] using h

theorem out_raiseNow (x : Die) (c n : Nat) (b : Bool) (o : Out) (h : o ∈ x.out) : o ∈ (x.raiseNow c n b).out := by
  unfold Die.raiseNow
  dsimp only
  split
  · exact h
  · exact out_deliver _ _ o h

theorem out_raiseAll (x : Die) (o : Out) (h : o ∈ x.out) : o ∈ x.raiseAll.out := by
  have hf : ∀ (rs : List (Nat × Nat × Bool)) (y : Die), o ∈ y.out →
      o ∈ (rs.foldl (fun x r => x.raiseNow r.1 r.2.1 r.2.2) y).out := by
    intro rs
    induction rs with
    | nil => exact fun y hy => hy
    | cons r t ih => exact fun y hy => ih _ (out_raiseNow y _ _ _ o hy)
  exact hf _ _ h

theorem out_occur (x : Die) (v : Nat) (o : Out) (h : o ∈ x.out) : o ∈ (x.occur v).out := by
  unfold Die.occur
  split
  · exact h
  · unfold Die.sendVector
    dsimp only
    split
    · exact h
    · split <;> exact List.mem_append_left _ h

theorem out_occurs (vs : List Nat) (x : Die) (o : Out) (h : o ∈ x.out) :
    o ∈ (vs.foldl (fun x v => if x.hif.logging then x else x.occur v) x).out := by
  induction vs generalizing x with
  | nil => exact h
  | cons v t ih =>
    rw [List.foldl_cons]
    refine ih _ ?_
    split
    · exact h
    · exact out_occur x v o h

theorem out_writeStatus (x : Die) (o : Out) (h : o ∈ x.out) : o ∈ x.writeStatus.out := by
  unfold Die.writeStatus
  split
  · exact h
  · exact List.mem_append_left _ h

/-- The end of a command takes no output away. -/
theorem out_finish (old x : Die) (o : Out) (h : o ∈ x.out) : o ∈ (Die.finish old x).out := by
  unfold Die.finish
  dsimp only
  refine out_occurs _ _ o ?_
  have := out_raiseAll x o h
  have h : ∀ c : Bool, o ∈ (if c then x.raiseAll.writeStatus else x.raiseAll).out := by
    intro c
    cases c
    · exact this
    · exact out_writeStatus _ o this
  exact h _

/-- What a meaning puts out, its command puts out. -/
theorem emits_of {s : State} {c : Instr} {d : DieId} {f : Ctx → Die → Die} {o : Out} (h : s.mod.runs = true)
    (e : exec c s = onDie s d f) (ho : o ∈ (f (s.ctx d) (s.at d)).out) : Emits s c d o := by
  refine ⟨_, e.trans (onDie_up s d f h), ?_⟩
  rw [setDie_die]
  exact out_finish _ _ o ho

end Sys2Proof.Machine
end

