-- ==== Sys2Proof/Laws/Commands.lean ====
section
/-! SUPPORT. The frame of a host command (`Die.hostCmd`): what it comes to when the head executes, and the completion that it
writes. -/

namespace Sys2Proof.Machine

/-- A head that executes: the command runs with the head taken off, and completes if it ends now. -/
theorem hostCmd_head {x : Die} {is : List Byte → Bool} {inDrydown : Bool} {needs stopped : List Byte → Bool}
    {used : List Byte → List (Nat × Nat)} {ok : Die → List Byte → Bool} {run : Cmd → List Byte → Die → Ending × Die}
    {b : List Byte} (hi : is b = true) (h : x.Head b inDrydown (needs b) (stopped b) (used b) (ok x.popHead b)) :
    x.hostCmd is inDrydown needs stopped used ok run =
      ((match run x.headCmd b x.popHead with
        | (.now st det, y) => y.complete x.headCmd st det
        | (.later, y) => y).flush).fetchMore := by
  obtain ⟨⟨f, rest, hf, hb, hbad⟩, hfree, hst, hent, hok⟩ := h
  subst hb
  have hc : x.headCmd = cmdOf f := by simp [Die.headCmd, hf]
  have hs : x.popHead.stateRefuses inDrydown (needs f.bytes) (stopped f.bytes) = false := hst
  unfold Die.hostCmd
  rw [hf]
  simp only [hi, hbad, hfree, Bool.not_true, Bool.or_self, hc, Bool.false_eq_true, if_false, hs, hent, hok]
  all_goals rfl

theorem core_hostCmd {x : Die} {is : List Byte → Bool} {inDrydown : Bool} {needs stopped : List Byte → Bool}
    {used : List Byte → List (Nat × Nat)} {ok : Die → List Byte → Bool} {run : Cmd → List Byte → Die → Ending × Die}
    {b : List Byte} (hi : is b = true) (h : x.Head b inDrydown (needs b) (stopped b) (used b) (ok x.popHead b)) :
    (x.hostCmd is inDrydown needs stopped used ok run).core = (run x.headCmd b x.popHead).2.core := by
  rw [hostCmd_head hi h, core_fetchMore, core_flush]
  split
  · rename_i st det y e
    rw [core_complete, e]
  · rename_i y e
    rw [e]

/-- The full flag puts out nothing. -/
theorem out_noteFull (x : Die) : x.noteFull.out = x.out := by
  unfold Die.noteFull
  split <;> rfl

theorem out_vector (x : Die) (v : Nat) : (x.vector v).out = x.out := rfl

theorem out_writeCompletion (x : Die) (d : Done) (o : Out) (h : o ∈ x.out) : o ∈ (x.writeCompletion d).out := by
  unfold Die.writeCompletion
  dsimp only
  split
  · rw [out_vector, out_noteFull]
    exact List.mem_append_left _ h
  · rw [out_noteFull]
    exact List.mem_append_left _ h

theorem out_stall (x : Die) : x.stall.out = x.out := by
  unfold Die.stall
  dsimp only
  split <;> rfl

theorem out_complete (x : Die) (c : Cmd) (st n : Nat) (o : Out) (h : o ∈ x.out) : o ∈ (x.complete c st n).out := by
  unfold Die.complete
  split
  · exact h
  · split
    · exact out_writeCompletion _ _ o h
    · dsimp only
      split
      · exact h
      · rw [out_stall]
        exact h

theorem out_flushBad (n : Nat) (x : Die) (o : Out) (h : o ∈ x.out) : o ∈ (Die.flushBad n x).out := by
  induction n generalizing x with
  | zero => exact h
  | succ n ih =>
    unfold Die.flushBad
    split
    · split
      · exact ih _ (out_complete _ _ _ _ o h)
      · exact h
    · exact h

theorem out_fetchMore (x : Die) (o : Out) (h : o ∈ x.out) : o ∈ x.fetchMore.out := by
  unfold Die.fetchMore
  dsimp only
  split
  · exact List.mem_append_left _ h
  · exact h

theorem out_flush (x : Die) (o : Out) (h : o ∈ x.out) : o ∈ x.flush.out := out_flushBad _ x o h

/-- A completion that finds space is written at once. -/
theorem complete_out (x : Die) (c : Cmd) (st n : Nat) (h1 : x.hif.logging = false) (h2 : x.hif.held = []) (h3 : x.cmpSpace = true)
    (h4 : x.hif.d3hot = false) : x.completionOut c st n ∈ (x.complete c st n).out := by
  unfold Die.complete
  simp only [h1, h2, h3, h4, List.isEmpty_nil, Bool.not_false, Bool.and_self, if_true, Bool.false_eq_true, if_false]
  unfold Die.writeCompletion
  dsimp only
  split
  · rw [out_vector, out_noteFull]
    exact List.mem_append_right _ (List.mem_singleton.2 rfl)
  · rw [out_noteFull]
    exact List.mem_append_right _ (List.mem_singleton.2 rfl)

/-- What a free ring says. -/
theorem ringFree_iff (x : Die) : x.ringFree = true ↔
    x.hif.wait.isNone = true ∧ x.hif.fence.isNone = true ∧ x.aborting = false ∧ x.hif.held.isEmpty = true ∧ x.cmpSpace = true ∧
      x.hif.logging = false ∧ x.hif.d3hot = false := by
  simp [Die.ringFree, and_assoc]

/-- The outputs of a host command that executes hold those of its run. -/
theorem out_hostCmd {x : Die} {is : List Byte → Bool} {inDrydown : Bool} {needs stopped : List Byte → Bool}
    {used : List Byte → List (Nat × Nat)} {ok : Die → List Byte → Bool} {run : Cmd → List Byte → Die → Ending × Die}
    {b : List Byte} (hi : is b = true) (h : x.Head b inDrydown (needs b) (stopped b) (used b) (ok x.popHead b)) (o : Out)
    (ho : o ∈ (run x.headCmd b x.popHead).2.out) : o ∈ (x.hostCmd is inDrydown needs stopped used ok run).out := by
  rw [hostCmd_head hi h]
  refine out_fetchMore _ o (out_flush _ o ?_)
  split
  · rename_i st det y e
    rw [e] at ho
    exact out_complete y _ _ _ o ho
  · rename_i y e
    rw [e] at ho
    exact ho

/-- A host command that ends now writes its completion, if its run has left the rings alone. -/
theorem completion_hostCmd {x : Die} {is : List Byte → Bool} {inDrydown : Bool} {needs stopped : List Byte → Bool}
    {used : List Byte → List (Nat × Nat)} {ok : Die → List Byte → Bool} {run : Cmd → List Byte → Die → Ending × Die}
    {b : List Byte} (hi : is b = true) (h : x.Head b inDrydown (needs b) (stopped b) (used b) (ok x.popHead b)) {st n : Nat}
    {y : Die} (hr : run x.headCmd b x.popHead = (.now st n, y)) (hh : y.hif.held = x.hif.held)
    (hl : y.hif.logging = x.hif.logging) (hd : y.hif.d3hot = x.hif.d3hot) (hs : y.cmpSpace = x.cmpSpace)
    (ho : y.completionOut x.headCmd st n = x.completionOut x.headCmd st n) :
    x.completionOut x.headCmd st n ∈ (x.hostCmd is inDrydown needs stopped used ok run).out := by
  rw [hostCmd_head hi h, hr]
  have hf := (ringFree_iff x).1 h.2.1
  rw [← ho]
  exact out_fetchMore _ _ (out_flush _ _ (complete_out y _ _ _ (by rw [hl, hf.2.2.2.2.2.1])
    (by rw [hh]; simpa using hf.2.2.2.1) (by rw [hs, hf.2.2.2.2.1]) (by rw [hd, hf.2.2.2.2.2.2])))

end Sys2Proof.Machine
end

