-- ==== Sys2Proof/Laws/Exec.lean ====
section
/-! SUPPORT. Which meaning each command has: one equation for each arm of `exec`. -/

namespace Sys2Proof.Machine

theorem exec_keeperStart (maddr : BitVec 3) (nvOk modEn ejectClosed : Bool) (s : State) : exec (.keeperStart maddr nvOk modEn ejectClosed) s = execKeeperStart maddr nvOk modEn ejectClosed s := rfl
theorem exec_keeperStop (s : State) : exec (.keeperStop) s = execKeeperStop s := rfl
theorem exec_presentLOpen (s : State) : exec (.presentLOpen) s = execPresentLOpen s := rfl
theorem exec_insertionSettled (s : State) : exec (.insertionSettled) s = execInsertionSettled s := rfl
theorem exec_inputSwitchClose (s : State) : exec (.inputSwitchClose) s = execInputSwitchClose s := rfl
theorem exec_bulkRampDone (s : State) : exec (.bulkRampDone) s = execBulkRampDone s := rfl
theorem exec_inrushFault (s : State) : exec (.inrushFault) s = execInrushFault s := rfl
theorem exec_powerGood (storeOkW storeOkE : Bool) (s : State) : exec (.powerGood storeOkW storeOkE) s = execPowerGood storeOkW storeOkE s := rfl
theorem exec_converterStartTimeout (s : State) : exec (.converterStartTimeout) s = execConverterStartTimeout s := rfl
theorem exec_railFault (s : State) : exec (.railFault) s = execRailFault s := rfl
theorem exec_undervoltage (s : State) : exec (.undervoltage) s = execUndervoltage s := rfl
theorem exec_overvoltage (s : State) : exec (.overvoltage) s = execOvervoltage s := rfl
theorem exec_bulkDepleted (s : State) : exec (.bulkDepleted) s = execBulkDepleted s := rfl
theorem exec_thermalWarn (base : BitVec 16) (s : State) : exec (.thermalWarn base) s = execThermalWarn base s := rfl
theorem exec_thermalTrip (d : DieId) (die base : BitVec 16) (s : State) : exec (.thermalTrip d die base) s = execThermalTrip d die base s := rfl
theorem exec_ejectLFiltered (s : State) : exec (.ejectLFiltered) s = execEjectLFiltered s := rfl
theorem exec_ejectLRelease (s : State) : exec (.ejectLRelease) s = execEjectLRelease s := rfl
theorem exec_modEnLow (s : State) : exec (.modEnLow) s = execModEnLow s := rfl
theorem exec_modEnRise (s : State) : exec (.modEnRise) s = execModEnRise s := rfl
theorem exec_rtcTick (m : Meas) (s : State) : exec (.rtcTick m) s = execRtcTick m s := rfl
theorem exec_rtcSave (s : State) : exec (.rtcSave) s = execRtcSave s := rfl
theorem exec_operation (pec : Bool) (s : State) : exec (.operation pec) s = execOperation pec s := rfl
theorem exec_clearFaults (pec : Option Byte) (s : State) : exec (.clearFaults pec) s = execClearFaults pec s := rfl
theorem exec_capability (pec : Bool) (s : State) : exec (.capability pec) s = execCapability pec s := rfl
theorem exec_statusByte (pec : Bool) (s : State) : exec (.statusByte pec) s = execStatusByte pec s := rfl
theorem exec_statusWord (pec : Bool) (s : State) : exec (.statusWord pec) s = execStatusWord pec s := rfl
theorem exec_statusInput (pec : Bool) (s : State) : exec (.statusInput pec) s = execStatusInput pec s := rfl
theorem exec_statusTemperature (pec : Bool) (s : State) : exec (.statusTemperature pec) s = execStatusTemperature pec s := rfl
theorem exec_statusCml (pec : Bool) (s : State) : exec (.statusCml pec) s = execStatusCml pec s := rfl
theorem exec_statusMfrSpecific (pec : Bool) (s : State) : exec (.statusMfrSpecific pec) s = execStatusMfrSpecific pec s := rfl
theorem exec_readVin (m : BitVec 11) (pec : Bool) (s : State) : exec (.readVin m pec) s = execReadVin m pec s := rfl
theorem exec_readIin (m : BitVec 11) (pec : Bool) (s : State) : exec (.readIin m pec) s = execReadIin m pec s := rfl
theorem exec_readTemperature1 (pec : Bool) (s : State) : exec (.readTemperature1 pec) s = execReadTemperature1 pec s := rfl
theorem exec_readTemperature2 (pec : Bool) (s : State) : exec (.readTemperature2 pec) s = execReadTemperature2 pec s := rfl
theorem exec_readTemperature3 (pec : Bool) (s : State) : exec (.readTemperature3 pec) s = execReadTemperature3 pec s := rfl
theorem exec_readPin (m : BitVec 11) (pec : Bool) (s : State) : exec (.readPin m pec) s = execReadPin m pec s := rfl
theorem exec_pmbusRevision (pec : Bool) (s : State) : exec (.pmbusRevision pec) s = execPmbusRevision pec s := rfl
theorem exec_mfrId (pec : Bool) (s : State) : exec (.mfrId pec) s = execMfrId pec s := rfl
theorem exec_mfrModel (pec : Bool) (s : State) : exec (.mfrModel pec) s = execMfrModel pec s := rfl
theorem exec_mfrSerial (pec : Bool) (s : State) : exec (.mfrSerial pec) s = execMfrSerial pec s := rfl
theorem exec_mfrWake (pec : Option Byte) (s : State) : exec (.mfrWake pec) s = execMfrWake pec s := rfl
theorem exec_mfrGoDormant (pec : Option Byte) (s : State) : exec (.mfrGoDormant pec) s = execMfrGoDormant pec s := rfl
theorem exec_mfrState (pec : Bool) (s : State) : exec (.mfrState pec) s = execMfrState pec s := rfl
theorem exec_mfrRtcRead (pec : Bool) (s : State) : exec (.mfrRtcRead pec) s = execMfrRtcRead pec s := rfl
theorem exec_mfrRtcWrite (rtc : BitVec 48) (pec : Option Byte) (s : State) : exec (.mfrRtcWrite rtc pec) s = execMfrRtcWrite rtc pec s := rfl
theorem exec_mfrLastOff (pec : Bool) (s : State) : exec (.mfrLastOff pec) s = execMfrLastOff pec s := rfl
theorem exec_mfrDormantHoldRead (pec : Bool) (s : State) : exec (.mfrDormantHoldRead pec) s = execMfrDormantHoldRead pec s := rfl
theorem exec_mfrDormantHoldSet (hi : BitVec 7) (pec : Option Byte) (s : State) : exec (.mfrDormantHoldSet hi pec) s = execMfrDormantHoldSet hi pec s := rfl
theorem exec_mfrDormantHoldClear (hi : BitVec 7) (pec : Option Byte) (s : State) : exec (.mfrDormantHoldClear hi pec) s = execMfrDormantHoldClear hi pec s := rfl
theorem exec_mfrTripCounts (pec : Bool) (s : State) : exec (.mfrTripCounts pec) s = execMfrTripCounts pec s := rfl
theorem exec_smbusInvalidCommand (code : Byte) (s : State) : exec (.smbusInvalidCommand code) s = execSmbusInvalidCommand code s := rfl
theorem exec_alertResponse (pec : Bool) (s : State) : exec (.alertResponse pec) s = execAlertResponse pec s := rfl
theorem exec_smbusClockLowTimeout (s : State) : exec (.smbusClockLowTimeout) s = execSmbusClockLowTimeout s := rfl
theorem exec_cclkLock (d : DieId) (s : State) : exec (.cclkLock d) s = execCclkLock d s := rfl
theorem exec_bootRefclkTimeout (d : DieId) (s : State) : exec (.bootRefclkTimeout d) s = execBootRefclkTimeout d s := rfl
theorem exec_refclkLost (d : DieId) (s : State) : exec (.refclkLost d) s = execRefclkLost d s := rfl
theorem exec_refclkHoldoverExpired (d : DieId) (s : State) : exec (.refclkHoldoverExpired d) s = execRefclkHoldoverExpired d s := rfl
theorem exec_refclkReturn (d : DieId) (s : State) : exec (.refclkReturn d) s = execRefclkReturn d s := rfl
theorem exec_refclkRestored (d : DieId) (s : State) : exec (.refclkRestored d) s = execRefclkRestored d s := rfl
theorem exec_ebSlip (d : DieId) (k : Lane) (s : State) : exec (.ebSlip d k) s = execEbSlip d k s := rfl
theorem exec_gclkRequest (d : DieId) (v : Word) (s : State) : exec (.gclkRequest d v) s = execGclkRequest d v s := rfl
theorem exec_gclkIdleLock (d : DieId) (s : State) : exec (.gclkIdleLock d) s = execGclkIdleLock d s := rfl
theorem exec_gclkLockTimeout (d : DieId) (s : State) : exec (.gclkLockTimeout d) s = execGclkLockTimeout d s := rfl
theorem exec_gclkSettleDone (d : DieId) (s : State) : exec (.gclkSettleDone d) s = execGclkSettleDone d s := rfl
theorem exec_gclkSwitch (d : DieId) (s : State) : exec (.gclkSwitch d) s = execGclkSwitch d s := rfl
theorem exec_gclkSegWrite (d : DieId) (v : Word) (s : State) : exec (.gclkSegWrite d v) s = execGclkSegWrite d v s := rfl
theorem exec_ldbRateWrite (d : DieId) (v : Word) (s : State) : exec (.ldbRateWrite d v) s = execLdbRateWrite d v s := rfl
theorem exec_qphyEnable (d : DieId) (v : Word) (s : State) : exec (.qphyEnable d v) s = execQphyEnable d v s := rfl
theorem exec_qphyDisable (d : DieId) (v : Word) (s : State) : exec (.qphyDisable d v) s = execQphyDisable d v s := rfl
theorem exec_qphyRateWrite (d : DieId) (v : Word) (s : State) : exec (.qphyRateWrite d v) s = execQphyRateWrite d v s := rfl
theorem exec_laneDetect (d : DieId) (k : Lane) (s : State) : exec (.laneDetect d k) s = execLaneDetect d k s := rfl
theorem exec_cdrLock (d : DieId) (k : Lane) (s : State) : exec (.cdrLock d k) s = execCdrLock d k s := rfl
theorem exec_blockLock (d : DieId) (k : Lane) (ts : BitVec 64) (s : State) : exec (.blockLock d k ts) s = execBlockLock d k ts s := rfl
theorem exec_tsReceive (d : DieId) (phys : Lane) (inv : Bool) (ts : BitVec 64) (s : State) : exec (.tsReceive d phys inv ts) s = execTsReceive d phys inv ts s := rfl
theorem exec_tapTunePointDone (d : DieId) (k : Lane) (height width : Byte) (s : State) : exec (.tapTunePointDone d k height width) s = execTapTunePointDone d k height width s := rfl
theorem exec_laneTapEchoMismatch (d : DieId) (k : Lane) (s : State) : exec (.laneTapEchoMismatch d k) s = execLaneTapEchoMismatch d k s := rfl
theorem exec_verifyPass (d : DieId) (k : Lane) (height width : Byte) (s : State) : exec (.verifyPass d k height width) s = execVerifyPass d k height width s := rfl
theorem exec_laneTrainTimeout (d : DieId) (k : Lane) (s : State) : exec (.laneTrainTimeout d k) s = execLaneTrainTimeout d k s := rfl
theorem exec_laneFailedRetry (d : DieId) (k : Lane) (s : State) : exec (.laneFailedRetry d k) s = execLaneFailedRetry d k s := rfl
theorem exec_laneLockLost (d : DieId) (k : Lane) (s : State) : exec (.laneLockLost d k) s = execLaneLockLost d k s := rfl
theorem exec_lsReceive (d : DieId) (ls : BitVec 64) (s : State) : exec (.lsReceive d ls) s = execLsReceive d ls s := rfl
theorem exec_laneService (d : DieId) (s : State) : exec (.laneService d) s = execLaneService d s := rfl
theorem exec_laneServiceEnd (d : DieId) (k : Lane) (errors bits : Nat) (s : State) : exec (.laneServiceEnd d k errors bits) s = execLaneServiceEnd d k errors bits s := rfl
theorem exec_prbsSync (d : DieId) (k : Lane) (s : State) : exec (.prbsSync d k) s = execPrbsSync d k s := rfl
theorem exec_prbsSyncLoss (d : DieId) (k : Lane) (errors bits : Nat) (s : State) : exec (.prbsSyncLoss d k errors bits) s = execPrbsSyncLoss d k errors bits s := rfl
theorem exec_prbsNoSync (d : DieId) (k : Lane) (s : State) : exec (.prbsNoSync d k) s = execPrbsNoSync d k s := rfl
theorem exec_eyeScan (d : DieId) (s : State) : exec (.eyeScan d) s = execEyeScan d s := rfl
theorem exec_eyeScanDone (d : DieId) (counts : List (BitVec 16)) (hostAbort : Option Nat) (s : State) : exec (.eyeScanDone d counts hostAbort) s = execEyeScanDone d counts hostAbort s := rfl
theorem exec_marginCrossScan (d : DieId) (k : Lane) (height width : Byte) (s : State) : exec (.marginCrossScan d k height width) s = execMarginCrossScan d k height width s := rfl
theorem exec_lanePartnerAsleep (d : DieId) (s : State) : exec (.lanePartnerAsleep d) s = execLanePartnerAsleep d s := rfl
theorem exec_ccSlotSend (d : DieId) (s : State) : exec (.ccSlotSend d) s = execCcSlotSend d s := rfl
theorem exec_ccSlotReceive (d : DieId) (b0 b1 b2 b3 : BitVec 66) (s : State) : exec (.ccSlotReceive d b0 b1 b2 b3) s = execCcSlotReceive d b0 b1 b2 b3 s := rfl
theorem exec_stripeReceive (d : DieId) (b0 b1 b2 b3 : BitVec 66) (s : State) : exec (.stripeReceive d b0 b1 b2 b3) s = execStripeReceive d b0 b1 b2 b3 s := rfl
theorem exec_ccSlotMissing (d : DieId) (s : State) : exec (.ccSlotMissing d) s = execCcSlotMissing d s := rfl
theorem exec_parcelOpenTimeout (d : DieId) (s : State) : exec (.parcelOpenTimeout d) s = execParcelOpenTimeout d s := rfl
theorem exec_parcelTransmit (d : DieId) (s : State) : exec (.parcelTransmit d) s = execParcelTransmit d s := rfl
theorem exec_videoParcelReceive (d : DieId) (p : RxParcel) (s : State) : exec (.videoParcelReceive d p) s = execVideoParcelReceive d p s := rfl
theorem exec_parcelTypeUnknown (d : DieId) (p : RxParcel) (s : State) : exec (.parcelTypeUnknown d p) s = execParcelTypeUnknown d p s := rfl
theorem exec_ctrlParcelReceive (d : DieId) (p : RxParcel) (s : State) : exec (.ctrlParcelReceive d p) s = execCtrlParcelReceive d p s := rfl
theorem exec_ackReceive (d : DieId) (p : RxParcel) (s : State) : exec (.ackReceive d p) s = execAckReceive d p s := rfl
theorem exec_statReceive (d : DieId) (p : RxParcel) (s : State) : exec (.statReceive d p) s = execStatReceive d p s := rfl
theorem exec_statSend (d : DieId) (s : State) : exec (.statSend d) s = execStatSend d s := rfl
theorem exec_ctrlRetransmitTimeout (d : DieId) (dst : Byte) (seq : BitVec 16) (s : State) : exec (.ctrlRetransmitTimeout d dst seq) s = execCtrlRetransmitTimeout d dst seq s := rfl
theorem exec_nakBusyRetry (d : DieId) (dst : Byte) (seq : BitVec 16) (s : State) : exec (.nakBusyRetry d dst seq) s = execNakBusyRetry d dst seq s := rfl
theorem exec_syncSend (d : DieId) (sub : BitVec 4) (s : State) : exec (.syncSend d sub) s = execSyncSend d sub s := rfl
theorem exec_syncReceive (d : DieId) (p : RxParcel) (sub : BitVec 4) (s : State) : exec (.syncReceive d p sub) s = execSyncReceive d p sub s := rfl
theorem exec_beaconReceive (d : DieId) (p : RxParcel) (s : State) : exec (.beaconReceive d p) s = execBeaconReceive d p s := rfl
theorem exec_timeParcelBadKind (d : DieId) (p : RxParcel) (s : State) : exec (.timeParcelBadKind d p) s = execTimeParcelBadKind d p s := rfl
theorem exec_hopCountExpire (d : DieId) (endB far : Bool) (s : State) : exec (.hopCountExpire d endB far) s = execHopCountExpire d endB far s := rfl
theorem exec_masterClaim (d : DieId) (s : State) : exec (.masterClaim d) s = execMasterClaim d s := rfl
theorem exec_masterTakeover (d : DieId) (s : State) : exec (.masterTakeover d) s = execMasterTakeover d s := rfl
theorem exec_accordSyncLost (d : DieId) (s : State) : exec (.accordSyncLost d) s = execAccordSyncLost d s := rfl
theorem exec_accordNoMaster (d : DieId) (s : State) : exec (.accordNoMaster d) s = execAccordNoMaster d s := rfl
theorem exec_frameDoneReceive (d : DieId) (p : RxParcel) (s : State) : exec (.frameDoneReceive d p) s = execFrameDoneReceive d p s := rfl
theorem exec_deadlineRepeat (d : DieId) (s : State) : exec (.deadlineRepeat d) s = execDeadlineRepeat d s := rfl
theorem exec_deadlineReceive (d : DieId) (p : RxParcel) (s : State) : exec (.deadlineReceive d p) s = execDeadlineReceive d p s := rfl
theorem exec_wallNop (d : DieId) (s : State) : exec (.wallNop d) s = execWallNop d s := rfl
theorem exec_wallSetField (t : FieldTurn) (s : State) : exec (.wallSetField t) s = execWallSetField t s := rfl
theorem exec_wallStatusQuery (d : DieId) (s : State) : exec (.wallStatusQuery d) s = execWallStatusQuery d s := rfl
theorem exec_wallAddrAssign (d : DieId) (s : State) : exec (.wallAddrAssign d) s = execWallAddrAssign d s := rfl
theorem exec_wallRoleSet (d : DieId) (s : State) : exec (.wallRoleSet d) s = execWallRoleSet d s := rfl
theorem exec_wallLatencySet (d : DieId) (s : State) : exec (.wallLatencySet d) s = execWallLatencySet d s := rfl
theorem exec_accAcdKeyWrite (d : DieId) (k : Fin 4) (v : Word) (s : State) : exec (.accAcdKeyWrite d k v) s = execAccAcdKeyWrite d k v s := rfl
theorem exec_stitchStatusSend (d : DieId) (s : State) : exec (.stitchStatusSend d) s = execStitchStatusSend d s := rfl
theorem exec_stitchTimeSend (d : DieId) (s : State) : exec (.stitchTimeSend d) s = execStitchTimeSend d s := rfl
theorem exec_stitchLockReceive (d : DieId) (h : StiHead) (m : StiLock) (s : State) : exec (.stitchLockReceive d h m) s = execStitchLockReceive d h m s := rfl
theorem exec_stitchTimeReceive (d : DieId) (h : StiHead) (m : StiTimeIn) (s : State) : exec (.stitchTimeReceive d h m) s = execStitchTimeReceive d h m s := rfl
theorem exec_stitchParcelReceive (d : DieId) (h : StiHead) (m : StiParcel) (s : State) : exec (.stitchParcelReceive d h m) s = execStitchParcelReceive d h m s := rfl
theorem exec_stitchStatusReceive (d : DieId) (h : StiHead) (m : StiStatus) (peerGood : Bool) (latency : Byte) (s : State) : exec (.stitchStatusReceive d h m peerGood latency) s = execStitchStatusReceive d h m peerGood latency s := rfl
theorem exec_stitchBlotterReceive (d : DieId) (h : StiHead) (m : StiBlotter) (s : State) : exec (.stitchBlotterReceive d h m) s = execStitchBlotterReceive d h m s := rfl
theorem exec_stitchTrainStart (d : DieId) (s : State) : exec (.stitchTrainStart d) s = execStitchTrainStart d s := rfl
theorem exec_stitchTrainFail (d : DieId) (s : State) : exec (.stitchTrainFail d) s = execStitchTrainFail d s := rfl
theorem exec_stitchDown (d : DieId) (s : State) : exec (.stitchDown d) s = execStitchDown d s := rfl
theorem exec_stitchHoldExpired (d : DieId) (s : State) : exec (.stitchHoldExpired d) s = execStitchHoldExpired d s := rfl
theorem exec_peerStateChange (d : DieId) (s : State) : exec (.peerStateChange d) s = execPeerStateChange d s := rfl
theorem exec_doorbellPoll (d : DieId) (s : State) : exec (.doorbellPoll d) s = execDoorbellPoll d s := rfl
theorem exec_doorbellReadDone (d : DieId) (r : Option (List Byte)) (s : State) : exec (.doorbellReadDone d r) s = execDoorbellReadDone d r s := rfl
theorem exec_commandFetchDone (d : DieId) (r : Option (List (List Byte))) (s : State) : exec (.commandFetchDone d r) s = execCommandFetchDone d r s := rfl
theorem exec_nop (d : DieId) (s : State) : exec (.nop d) s = execNop d s := rfl
theorem exec_fence (d : DieId) (s : State) : exec (.fence d) s = execFence d s := rfl
theorem exec_fenceDone (d : DieId) (s : State) : exec (.fenceDone d) s = execFenceDone d s := rfl
theorem exec_waitEvent (d : DieId) (s : State) : exec (.waitEvent d) s = execWaitEvent d s := rfl
theorem exec_waitEventTimeReached (d : DieId) (s : State) : exec (.waitEventTimeReached d) s = execWaitEventTimeReached d s := rfl
theorem exec_waitEventTimeout (d : DieId) (s : State) : exec (.waitEventTimeout d) s = execWaitEventTimeout d s := rfl
theorem exec_setField (d : DieId) (s : State) : exec (.setField d) s = execSetField d s := rfl
theorem exec_setFieldRegister (d : DieId) (s : State) : exec (.setFieldRegister d) s = execSetFieldRegister d s := rfl
theorem exec_rtcSet (d : DieId) (s : State) : exec (.rtcSet d) s = execRtcSet d s := rfl
theorem exec_tableLoad (d : DieId) (s : State) : exec (.tableLoad d) s = execTableLoad d s := rfl
theorem exec_tableRead (d : DieId) (s : State) : exec (.tableRead d) s = execTableRead d s := rfl
theorem exec_trimRun (d : DieId) (s : State) : exec (.trimRun d) s = execTrimRun d s := rfl
theorem exec_sillageEnter (d : DieId) (s : State) : exec (.sillageEnter d) s = execSillageEnter d s := rfl
theorem exec_sillageExit (d : DieId) (s : State) : exec (.sillageExit d) s = execSillageExit d s := rfl
theorem exec_blotterArm (d : DieId) (s : State) : exec (.blotterArm d) s = execBlotterArm d s := rfl
theorem exec_blotterDisarm (d : DieId) (s : State) : exec (.blotterDisarm d) s = execBlotterDisarm d s := rfl
theorem exec_storeWrite (d : DieId) (s : State) : exec (.storeWrite d) s = execStoreWrite d s := rfl
theorem exec_storeRead (d : DieId) (s : State) : exec (.storeRead d) s = execStoreRead d s := rfl
theorem exec_storeErase (d : DieId) (s : State) : exec (.storeErase d) s = execStoreErase d s := rfl
theorem exec_wearExport (d : DieId) (s : State) : exec (.wearExport d) s = execWearExport d s := rfl
theorem exec_wearImport (d : DieId) (s : State) : exec (.wearImport d) s = execWearImport d s := rfl
theorem exec_accordSend (d : DieId) (s : State) : exec (.accordSend d) s = execAccordSend d s := rfl
theorem exec_statusSnapshot (d : DieId) (s : State) : exec (.statusSnapshot d) s = execStatusSnapshot d s := rfl
theorem exec_dmaArm (d : DieId) (s : State) : exec (.dmaArm d) s = execDmaArm d s := rfl
theorem exec_dmaStop (d : DieId) (s : State) : exec (.dmaStop d) s = execDmaStop d s := rfl
theorem exec_dmaAbort (d : DieId) (s : State) : exec (.dmaAbort d) s = execDmaAbort d s := rfl
theorem exec_dmaAbortDone (d : DieId) (ch : Chan) (a : AbortIo) (s : State) : exec (.dmaAbortDone d ch a) s = execDmaAbortDone d ch a s := rfl
theorem exec_panelIdRead (d : DieId) (s : State) : exec (.panelIdRead d) s = execPanelIdRead d s := rfl
theorem exec_defectScan (d : DieId) (s : State) : exec (.defectScan d) s = execDefectScan d s := rfl
theorem exec_defectScanInsert (d : DieId) (s : State) : exec (.defectScanInsert d) s = execDefectScanInsert d s := rfl
theorem exec_badOpcode (d : DieId) (s : State) : exec (.badOpcode d) s = execBadOpcode d s := rfl
theorem exec_engineDone (d : DieId) (eng : Engine) (io : EngineIo) (s : State) : exec (.engineDone d eng io) s = execEngineDone d eng io s := rfl
theorem exec_irqHoldoffExpiry (d : DieId) (v : Fin 32) (s : State) : exec (.irqHoldoffExpiry d v) s = execIrqHoldoffExpiry d v s := rfl
theorem exec_hostLinkDown (d : DieId) (cause : LinkDown) (s : State) : exec (.hostLinkDown d cause) s = execHostLinkDown d cause s := rfl
theorem exec_pcieLinkTrain (d : DieId) (cfg : PcieLink) (s : State) : exec (.pcieLinkTrain d cfg) s = execPcieLinkTrain d cfg s := rfl
theorem exec_hifEnable (d : DieId) (v : Word) (s : State) : exec (.hifEnable d v) s = execHifEnable d v s := rfl
theorem exec_hifDisable (d : DieId) (v : Word) (s : State) : exec (.hifDisable d v) s = execHifDisable d v s := rfl
theorem exec_hifCfgWrite (d : DieId) (off : BitVec 16) (v : Word) (s : State) : exec (.hifCfgWrite d off v) s = execHifCfgWrite d off v s := rfl
theorem exec_d3hotEntry (d : DieId) (s : State) : exec (.d3hotEntry d) s = execD3hotEntry d s := rfl
theorem exec_d0Return (d : DieId) (s : State) : exec (.d0Return d) s = execD0Return d s := rfl
theorem exec_barAccessSize (d : DieId) (write : Bool) (off : BitVec 16) (v : Word) (s : State) : exec (.barAccessSize d write off v) s = execBarAccessSize d write off v s := rfl
theorem exec_hifStickyClear (d : DieId) (v : Word) (s : State) : exec (.hifStickyClear d v) s = execHifStickyClear d v s := rfl
theorem exec_dmaTrigger (d : DieId) (ch : Chan) (s : State) : exec (.dmaTrigger d ch) s = execDmaTrigger d ch s := rfl
theorem exec_dmaDescFetchDone (d : DieId) (ch : Chan) (r : Option (List Byte)) (s : State) : exec (.dmaDescFetchDone d ch r) s = execDmaDescFetchDone d ch r s := rfl
theorem exec_dmaHalfDone (d : DieId) (ch : Chan) (io : DmaIo) (s : State) : exec (.dmaHalfDone d ch io) s = execDmaHalfDone d ch io s := rfl
theorem exec_dmaDescDone (d : DieId) (ch : Chan) (io : DmaIo) (s : State) : exec (.dmaDescDone d ch io) s = execDmaDescDone d ch io s := rfl
theorem exec_dmaSettleDone (d : DieId) (ch : Chan) (s : State) : exec (.dmaSettleDone d ch) s = execDmaSettleDone d ch s := rfl
theorem exec_freeTimerFire (d : DieId) (t : Fin 8) (s : State) : exec (.freeTimerFire d t) s = execFreeTimerFire d t s := rfl
theorem exec_dramInitDone (d : DieId) (s : State) : exec (.dramInitDone d) s = execDramInitDone d s := rfl
theorem exec_dramInitRetry (d : DieId) (s : State) : exec (.dramInitRetry d) s = execDramInitRetry d s := rfl
theorem exec_dramScrub (d : DieId) (upTo : Nat) (met : ScrubMet) (s : State) : exec (.dramScrub d upTo met) s = execDramScrub d upTo met s := rfl
theorem exec_cvuSelWrite (d : DieId) (v : Word) (s : State) : exec (.cvuSelWrite d v) s = execCvuSelWrite d v s := rfl
theorem exec_aliveKeyExpire (d : DieId) (key : AliveKey) (s : State) : exec (.aliveKeyExpire d key) s = execAliveKeyExpire d key s := rfl
theorem exec_runSet (d : DieId) (s : State) : exec (.runSet d) s = execRunSet d s := rfl
theorem exec_runClear (d : DieId) (s : State) : exec (.runClear d) s = execRunClear d s := rfl
theorem exec_tmgRasterWrite (d : DieId) (off : BitVec 16) (v : Word) (s : State) : exec (.tmgRasterWrite d off v) s = execTmgRasterWrite d off v s := rfl
theorem exec_tmgModeWrite (d : DieId) (v : Word) (s : State) : exec (.tmgModeWrite d v) s = execTmgModeWrite d v s := rfl
theorem exec_nominalStart (d : DieId) (s : State) : exec (.nominalStart d) s = execNominalStart d s := rfl
theorem exec_frameStart (d : DieId) (s : State) : exec (.frameStart d) s = execFrameStart d s := rfl
theorem exec_lineStart (d : DieId) (obs : MemObs) (s : State) : exec (.lineStart d obs) s = execLineStart d obs s := rfl
theorem exec_vblankStart (d : DieId) (s : State) : exec (.vblankStart d) s = execVblankStart d s := rfl
theorem exec_frameEnd (d : DieId) (s : State) : exec (.frameEnd d) s = execFrameEnd d s := rfl
theorem exec_teEdge (d : DieId) (s : State) : exec (.teEdge d) s = execTeEdge d s := rfl
theorem exec_teLost (d : DieId) (s : State) : exec (.teLost d) s = execTeLost d s := rfl
theorem exec_layerLatchClear (d : DieId) (top : Bool) (s : State) : exec (.layerLatchClear d top) s = execLayerLatchClear d top s := rfl
theorem exec_identityReadDone (d : DieId) (r : IdRead) (s : State) : exec (.identityReadDone d r) s = execIdentityReadDone d r s := rfl
theorem exec_corMapBuildDone (d : DieId) (s : State) : exec (.corMapBuildDone d) s = execCorMapBuildDone d s := rfl
theorem exec_retargetStart (d : DieId) (s : State) : exec (.retargetStart d) s = execRetargetStart d s := rfl
theorem exec_retargetPassDone (d : DieId) (s : State) : exec (.retargetPassDone d) s = execRetargetPassDone d s := rfl
theorem exec_wearCheckpoint (d : DieId) (s : State) : exec (.wearCheckpoint d) s = execWearCheckpoint d s := rfl
theorem exec_wearCheckpointOverdue (d : DieId) (s : State) : exec (.wearCheckpointOverdue d) s = execWearCheckpointOverdue d s := rfl
theorem exec_wearEnable (d : DieId) (v : Word) (s : State) : exec (.wearEnable d v) s = execWearEnable d v s := rfl
theorem exec_wearStripWrite (d : DieId) (v : Word) (s : State) : exec (.wearStripWrite d v) s = execWearStripWrite d v s := rfl
theorem exec_oddCfgWrite (d : DieId) (v : Word) (s : State) : exec (.oddCfgWrite d v) s = execOddCfgWrite d v s := rfl
theorem exec_ldbEnable (d : DieId) (s : State) : exec (.ldbEnable d) s = execLdbEnable d s := rfl
theorem exec_ldbDisable (d : DieId) (s : State) : exec (.ldbDisable d) s = execLdbDisable d s := rfl
theorem exec_ldbCfgWrite (d : DieId) (off : BitVec 16) (v : Word) (s : State) : exec (.ldbCfgWrite d off v) s = execLdbCfgWrite d off v s := rfl
theorem exec_gsWriteSend (d : DieId) (lane : Fin 32) (row first nicM1 : Fin 64) (s : State) : exec (.gsWriteSend d lane row first nicM1) s = execGsWriteSend d lane row first nicM1 s := rfl
theorem exec_latchSend (d : DieId) (s : State) : exec (.latchSend d) s = execLatchSend d s := rfl
theorem exec_echoReplyReceive (d : DieId) (g : Group) (words : List (BitVec 16)) (s : State) : exec (.echoReplyReceive d g words) s = execEchoReplyReceive d g words s := rfl
theorem exec_ldbEchoTimeout (d : DieId) (g : Group) (s : State) : exec (.ldbEchoTimeout d g) s = execLdbEchoTimeout d g s := rfl
theorem exec_sillageIdleTimeout (d : DieId) (s : State) : exec (.sillageIdleTimeout d) s = execSillageIdleTimeout d s := rfl
theorem exec_sillageHandoff (d : DieId) (s : State) : exec (.sillageHandoff d) s = execSillageHandoff d s := rfl
theorem exec_sillageDeepEntry (d : DieId) (s : State) : exec (.sillageDeepEntry d) s = execSillageDeepEntry d s := rfl
theorem exec_takeoverStart (d : DieId) (s : State) : exec (.takeoverStart d) s = execTakeoverStart d s := rfl
theorem exec_takeoverRetry (d : DieId) (s : State) : exec (.takeoverRetry d) s = execTakeoverRetry d s := rfl
theorem exec_takeoverUnaligned (d : DieId) (s : State) : exec (.takeoverUnaligned d) s = execTakeoverUnaligned d s := rfl
theorem exec_drydownForwardEnd (d : DieId) (s : State) : exec (.drydownForwardEnd d) s = execDrydownForwardEnd d s := rfl
theorem exec_drydownComplete (s : State) : exec (.drydownComplete) s = execDrydownComplete s := rfl
theorem exec_blotterFrozenClear (d : DieId) (s : State) : exec (.blotterFrozenClear d) s = execBlotterFrozenClear d s := rfl
theorem exec_trimStepDone (d : DieId) (r : TrimResult) (s : State) : exec (.trimStepDone d r) s = execTrimStepDone d r s := rfl
theorem exec_irefMeasureDone (d : DieId) (inReach : Bool) (s : State) : exec (.irefMeasureDone d inReach) s = execIrefMeasureDone d inReach s := rfl
theorem exec_trimAuto (d : DieId) (k : Fin 3) (s : State) : exec (.trimAuto d k) s = execTrimAuto d k s := rfl
theorem exec_trimWait (d : DieId) (k : Fin 3) (s : State) : exec (.trimWait d k) s = execTrimWait d k s := rfl
theorem exec_trimStartTimeout (d : DieId) (s : State) : exec (.trimStartTimeout d) s = execTrimStartTimeout d s := rfl
theorem exec_storeReady (d : DieId) (s : State) : exec (.storeReady d) s = execStoreReady d s := rfl
theorem exec_storeProgramDone (d : DieId) (bad : Option Nat) (s : State) : exec (.storeProgramDone d bad) s = execStoreProgramDone d bad s := rfl
theorem exec_storeEraseDone (d : DieId) (ok : Bool) (s : State) : exec (.storeEraseDone d ok) s = execStoreEraseDone d ok s := rfl
theorem exec_storeEraseResume (d : DieId) (s : State) : exec (.storeEraseResume d) s = execStoreEraseResume d s := rfl
theorem exec_storeRefreshStart (d : DieId) (s : State) : exec (.storeRefreshStart d) s = execStoreRefreshStart d s := rfl
theorem exec_bootComplete (d : DieId) (s : State) : exec (.bootComplete d) s = execBootComplete d s := rfl
theorem exec_sysSealWrite (d : DieId) (v : Word) (s : State) : exec (.sysSealWrite d v) s = execSysSealWrite d v s := rfl
theorem exec_loReadLatch (d : DieId) (off : BitVec 16) (s : State) : exec (.loReadLatch d off) s = execLoReadLatch d off s := rfl
theorem exec_rcCounterRead (d : DieId) (off : BitVec 16) (s : State) : exec (.rcCounterRead d off) s = execRcCounterRead d off s := rfl
theorem exec_registerWrite (d : DieId) (off : BitVec 16) (v : Word) (be : BitVec 4) (s : State) : exec (.registerWrite d off v be) s = execRegisterWrite d off v be s := rfl
theorem exec_segmentBoundary (d : DieId) (s : State) : exec (.segmentBoundary d) s = execSegmentBoundary d s := rfl
theorem exec_thermalWarnEnd (base : BitVec 16) (s : State) : exec (.thermalWarnEnd base) s = execThermalWarnEnd base s := rfl
theorem exec_gclkStartRetry (d : DieId) (s : State) : exec (.gclkStartRetry d) s = execGclkStartRetry d s := rfl

end Sys2Proof.Machine
end

