-- ==== Sys2Proof/Laws/Landing.lean ====
section
/-! SUPPORT. Writes of the DMA engine on their way to memory (R210): however many of them have landed, memory in the end is the
same, and no landing breaks its canonical form. -/

namespace Sys2Proof.Machine

/-- What a list of writes leaves. -/
def Die.landAll (x : Die) (ls : List Landing) : Die := ls.foldl (fun (x : Die) l => x.poke l.dram l.addr l.bytes) x

/-- The die with other writes on their way, and another count of free values. -/
def Die.waiting (x : Die) (n : Nat) (u : List Landing) : Die := { x with free := n, mem := { x.mem with unlanded := u } }

/-- A write reaches the bytes of memory alone: what is on its way, and the count of free values, are as they were. -/
theorem poke_waiting (x : Die) (n : Nat) (u : List Landing) (dram : Bool) (a : Nat) (bs : List Byte) :
    (x.waiting n u).poke dram a bs = (x.poke dram a bs).waiting n u := by
  cases dram <;> rfl

theorem landAll_waiting (ls : List Landing) (x : Die) (n : Nat) (u : List Landing) :
    (x.waiting n u).landAll ls = (x.landAll ls).waiting n u := by
  induction ls generalizing x with
  | nil => rfl
  | cons l t ih => exact (congrArg (fun y : Die => y.landAll t) (poke_waiting x n u l.dram l.addr l.bytes)).trans (ih _)

theorem landAll_append (ls ks : List Landing) (x : Die) : x.landAll (ls ++ ks) = (x.landAll ls).landAll ks := List.foldl_append ..

theorem landWhere_all (x : Die) : (x.landWhere fun _ => true) = (x.landAll x.mem.unlanded).waiting x.free [] := by
  refine Eq.trans ?_ (landAll_waiting x.mem.unlanded x x.free [])
  simp only [Die.landWhere, List.filter_true, Bool.not_true, List.filter_false]
  rfl

/-- Landing some of the writes first changes nothing of what memory is once all have landed. -/
theorem landWhere_landSome (x : Die) : (x.landSome.landWhere fun _ => true).mem = (x.landWhere fun _ => true).mem := by
  unfold Die.landSome
  split
  · rfl
  · generalize hn : Config.freeNat x.free % (x.mem.unlanded.length + 1) = n
    have hy : (x.waiting (x.free + 1) (x.mem.unlanded.drop n)).landAll (x.mem.unlanded.take n) =
        (x.landAll (x.mem.unlanded.take n)).waiting (x.free + 1) (x.mem.unlanded.drop n) := landAll_waiting ..
    refine (congrArg (fun y : Die => (y.landWhere fun _ => true).mem) hy).trans ?_
    rw [landWhere_all, landWhere_all]
    show ((Die.landAll (Die.waiting _ _ _) (x.mem.unlanded.drop n)).waiting _ []).mem = _
    rw [landAll_waiting, ← landAll_append, List.take_append_drop]
    rfl

/-- The canonical form of a die's memories. -/
def Die.memWf (x : Die) : Prop := Memory.wf 0 x.mem.scratch = true ∧ Memory.wf 0 x.mem.dram = true

theorem landAll_wf (ls : List Landing) (x : Die) (h : x.memWf) : (x.landAll ls).memWf := by
  induction ls generalizing x with
  | nil => exact h
  | cons l t ih => exact ih _ (Die.poke_wf x l.dram l.addr l.bytes h.1 h.2)

theorem landWhere_wf (x : Die) (p : Landing → Bool) (h : x.memWf) : (x.landWhere p).memWf := landAll_wf _ _ h

theorem landSome_wf (x : Die) (h : x.memWf) : x.landSome.memWf := by
  unfold Die.landSome
  split
  · exact h
  · exact landAll_wf _ _ h

end Sys2Proof.Machine
end

