-- ==== Sys2Proof/Laws/Stitch.lean ====
section
/-! SUPPORT. What a stitch message comes to at the die that takes it (`Die.stitchTake`, `Die.stitchUse`): one that fails CVU-T, one
under a wrong header, and one that passes both and the alive test. The head that the sender makes passes. -/

namespace Sys2Proof

@[simp] theorem stiHead_passes (code cls : Nat) (pay : List Byte) (a : BitVec 16) : (stiHead code cls pay a).passes code pay = true :=
  beq_self_eq_true _
@[simp] theorem stiHead_header (code cls : Nat) (pay : List Byte) (a : BitVec 16) :
    (stiHead code cls pay a).header = stiHeader cls pay := rfl
@[simp] theorem stiHead_alive (code cls : Nat) (pay : List Byte) (a : BitVec 16) : (stiHead code cls pay a).alive = a := rfl

/-- Another check value fails. -/
theorem passes_unique {h g : StiHead} {code : Nat} {pay : List Byte} (hp : h.passes code pay = true) (hd : g.header = h.header)
    (ha : g.alive = h.alive) (hc : g.check ≠ h.check) : g.passes code pay = false := by
  rw [StiHead.passes, beq_iff_eq] at hp
  rw [StiHead.passes, beq_eq_false_iff_ne, hd, ha, ← hp]
  exact hc

end Sys2Proof

namespace Sys2Proof.Machine

/-- The die that has taken a message of class `cls` under the alive counter `a`. -/
def Die.heardSti (x : Die) (cls : Nat) (a : BitVec 16) : Die :=
  { x.bump (F.cvuPass 1) with
    sti := { x.sti with failRun := 0 }
    pcl := { x.pcl with rxAlive := assoc x.pcl.rxAlive (.stitch (BitVec.ofNat 4 cls)) a } }

/-- Taking a message leaves the stitch's state. -/
@[simp] theorem heardSti_stitchUp (x : Die) (cls : Nat) (a : BitVec 16) : (x.heardSti cls a).stitchUp = x.stitchUp := by
  have h : (x.heardSti cls a).reg F.stiState.off = x.reg F.stiState.off := reg_bump_ne x (F.cvuPass 1) 1 _ (by decide)
  rw [Die.stitchUp, Die.stitchUp, Die.get, Die.get, h]

/-- A sound message is taken, whatever it says. -/
theorem stitchTake_sound {x : Die} {cls : Nat} {pay : List Byte} {h : StiHead} (hp : h.passes (cvuSel x 1) pay = true)
    (hh : h.header = stiHeader cls pay) (ha : aliveTest (look x.pcl.rxAlive (.stitch (BitVec.ofNat 4 cls))) h.alive = .accepted) :
    x.stitchTake cls pay h = (true, x.heardSti cls h.alive) := by
  simp only [Die.stitchTake, hp, hh, Bool.not_true, Bool.false_eq_true, if_false, bne_self_eq_false, Die.alive]
  rw [show (x.bump (F.cvuPass 1)).pcl = x.pcl from rfl, ha]
  rfl

/-- A message under the header of another class or length is discarded and counted. -/
theorem stitchTake_header {x : Die} {cls : Nat} {pay : List Byte} {h : StiHead} (hp : h.passes (cvuSel x 1) pay = true)
    (hh : h.header ≠ stiHeader cls pay) :
    x.stitchTake cls pay h =
      (false, ({ x.bump (F.cvuPass 1) with sti := { x.sti with failRun := 0 } } : Die).bump F.stiCheckFail) := by
  simp only [Die.stitchTake, hp, Bool.not_true, Bool.false_eq_true, if_false, bne_iff_ne, ne_eq, hh, not_false_eq_true, if_true]
  rfl

/-- A sound message of a class other than STATUS has its effect while the stitch is UP, and none otherwise. -/
theorem stitchUse_sound {x : Die} {cls : Nat} {pay : List Byte} {h : StiHead} (hp : h.passes (cvuSel x 1) pay = true)
    (hh : h.header = stiHeader cls pay) (ha : aliveTest (look x.pcl.rxAlive (.stitch (BitVec.ofNat 4 cls))) h.alive = .accepted)
    (use : Die → Die) :
    x.stitchUse cls pay h use =
      if x.stitchUp then use (x.heardSti cls h.alive) else x.heardSti cls h.alive := by
  rw [Die.stitchUse, stitchTake_sound hp hh ha, ← heardSti_stitchUp x cls h.alive]

end Sys2Proof.Machine
end

