-- ==== Sys2Proof/Tests/Slice0.lean ====
section
/-! SUPPORT. Tests of the model on small states: the operands that `wellFormed` refuses, a witness for the hypotheses of every
obligation with what the model answers there, and values that the spec tables. Each theorem is about one command. -/

namespace Sys2Proof.Tests

open Machine

set_option Elab.async false

/-- The module in use, with both dies past BOOTING. -/
def used : Module :=
  { Module.reset with
    phase := .on, sw := true, conv := true, good := true, diesUp := true, present := true, modEn := true }

/-- The keeper in DORMANT with the switch open. -/
def dormant : Module := { Module.reset with phase := .dormant, present := true, modEn := true }

/-- A die in ACTIVE, and one at reset. -/
def act : Die := { Die.reset .W with power := .active }
def boot : Die := Die.reset .W

/-- The module in use with `x` as its die W. -/
def st (x : Die) : State := { mod := used, w := x, e := { Die.reset .E with power := .active }, pending := [] }

/-- A state of the module alone, with both dies as given. -/
def sm (m : Module) (x : Die := act) : State := { mod := m, w := x, e := { x with id := .E }, pending := [] }

/-- The next state of a command, where it holds `p`. -/
def after (c : Instr) (s : State) (p : State → Bool) : Bool :=
  match exec c s with
  | .next t => p t
  | _ => false

/-- Whether two dies agree in their core. -/
def same (x y : Die) : Bool :=
  decide ({ x with regs := [], limits := [], hif := x.hif.core, out := [] } =
    { y with regs := [], limits := [], hif := y.hif.core, out := [] }) &&
  decide (x.regs.filter (fun r => !isReport r.1) = y.regs.filter (fun r => !isReport r.1))

/-- `Does` at die W of `st x`. -/
def does (c : Instr) (x y : Die) : Bool :=
  after c (st x) fun t => same t.w y && decide (t.mod = used ∧ t.e = (st x).e ∧ t.pending = [])

/-- `Ends`, `Raises` and `Emits` at die W of `st x`. -/
def ends (c : Instr) (x : Die) (p : Die → Bool) : Bool := after c (st x) fun t => p t.w
def raises (c : Instr) (x : Die) (code detail : Nat) : Bool :=
  ends c x fun z => z.get F.evtCode == code && z.get F.evtDetail == detail % 2 ^ 32
def emits (c : Instr) (x : Die) (o : Out) : Bool := ends c x fun z => z.out.contains o

/-- `DoesMod`. -/
def doesMod (s : State) (c : Instr) (m : Module) (w e : Die) : Bool :=
  after c s fun t => decide (t.mod = m ∧ t.pending = []) && same t.w w && same t.e e

/-- A count that is one higher. -/
def more (x z : Die) (f : F) : Bool := z.get f == min (x.get f + 1) (2 ^ f.width - 1)

/-- Operands that cannot occur: a ring read of 63 bytes, of no or nine entries or of a short one, a descriptor read that is too
short, an identity record of 255 bytes, memory words out of step, and message fields that are too wide. -/
def badOperands : List Instr :=
  [.doorbellReadDone .W (some (List.replicate 63 0)), .commandFetchDone .W (some []),
   .commandFetchDone .W (some (List.replicate 9 (List.replicate 64 0))), .commandFetchDone .W (some [List.replicate 63 0]),
   .dmaDescFetchDone .W 0 (some (List.replicate 31 0)), .identityReadDone .W (.record (List.replicate 255 0)),
   .lineStart .W ⟨[1], [], [], []⟩, .lineStart .W ⟨[], [], [], [31]⟩, .dramScrub .W 0 ⟨[33], []⟩, .dramScrub .W 64 ⟨[], [16]⟩, .dramScrub .W 48 ⟨[], []⟩,
   .stitchTimeReceive .W ⟨0, 0, 0⟩ ⟨⟨0, 0, .W, some ⟨0, 0, 0, 0, 0, 2 ^ 64, 0, 0⟩⟩, 0⟩,
   .stitchLockReceive .W ⟨0, 0, 0⟩ ⟨2 ^ 48, none, true⟩, .stitchBlotterReceive .W ⟨0, 0, 0⟩ ⟨2 ^ 48, 0, 0⟩]

/-- The same commands with operands at the ends of their ranges. -/
def goodOperands : List Instr :=
  [.doorbellReadDone .W (some (List.replicate 64 0)), .doorbellReadDone .W none,
   .commandFetchDone .W (some [List.replicate 64 0]), .commandFetchDone .W (some (List.replicate 8 (List.replicate 64 0))),
   .dmaDescFetchDone .W 0 (some (List.replicate 32 0)), .identityReadDone .W (.record (List.replicate 256 0)),
   .identityReadDone .W .noAck, .lineStart .W ⟨[32], [], [64], []⟩, .dramScrub .W 64 ⟨[32], [0]⟩,
   .stitchTimeReceive .W ⟨0, 0, 0⟩ ⟨⟨0, 0, .W, some ⟨0, 0, 0, 0, 0, 2 ^ 64 - 1, 0, 0⟩⟩, 0⟩,
   .stitchLockReceive .W ⟨0, 0, 0⟩ ⟨2 ^ 48 - 1, none, true⟩, .stitchBlotterReceive .W ⟨0, 0, 0⟩ ⟨2 ^ 48 - 1, 0, 0⟩, .rtcSave]

theorem test_wellFormed_refuses : badOperands.all (fun c => !c.wellFormed) = true := by decide +kernel

theorem test_wellFormed_admits : goodOperands.all (·.wellFormed) = true := by decide +kernel

/-- `ReadsAs` for both values of `pec`; the address byte of a read at strap 5 is 0xBA, and 0xBB. -/
def reads (s : State) (c : Bool → Instr) (code : Nat) (bs : List Byte) : Bool :=
  [false, true].all fun pec => doesMod s (c pec)
    { s.mod with out := [.smbus (if pec then bs ++ [pecOf ([0xBA] ++ le 1 code ++ [0xBB] ++ bs)] else bs)] } s.w s.e

/-- A keeper with strap 5 and every status set, in use. -/
def keeper : Module :=
  { used with
    maddr := 5, stInput := 0x90, stTemp := 0x40, stCml := 0x20, stMfr := 2, rtc := 0x0102030405, uv := 0xFFFFFFFF, ov := 7
    lastOff := 3, meas := ⟨5400, 900, 0xFFF6, 200, 210⟩ }

def keeperReads : List Bool :=
  let s := sm keeper
  [s.mod.answers, reads s .operation 0x01 [0x80], reads s .capability 0x19 [0x90],
   reads s .statusByte 0x78 (le 1 s.mod.statusByte), reads s .statusWord 0x79 (le 2 (s.mod.statusByte + 0x3000)),
   reads s .statusInput 0x7C [0x90], reads s .statusTemperature 0x7D [0x40], reads s .statusCml 0x7E [0x20],
   reads s .statusMfrSpecific 0x80 [2], reads s (.readVin 432) 0x88 [0xB0, 0xE9], reads s (.readIin 0x7FF) 0x89 [0xFF, 0xBF],
   reads s (.readPin 0) 0x97 [0, 0xE0], reads s .readTemperature1 0x8D [0xF6, 0xF7], reads s .readTemperature2 0x8E [0xC8, 0xF0],
   reads s .readTemperature3 0x8F [0xD2, 0xF0], reads s .pmbusRevision 0x98 [0x33],
   reads s .mfrId 0x99 [7, 0x4F, 0x56, 0x52, 0x55, 0x4F, 0x52, 0x4E], reads s .mfrState 0xD2 [4, 4],
   reads s .mfrRtcRead 0xD3 [6, 5, 4, 3, 2, 1, 0], reads s .mfrLastOff 0xD4 [3], reads s .mfrDormantHoldRead 0xD5 [0],
   reads s .mfrTripCounts 0xD6 [8, 0xFF, 0xFF, 0xFF, 0xFF, 7, 0, 0, 0]]

theorem witness_keeperReads : keeperReads.all id = true := by decide +kernel

/-- Writes to the keeper, with and without their PEC byte. -/
def keeperWrites : List Bool :=
  let m := { keeper with phase := .dormant, sw := false, conv := false, good := false, diesUp := false, modEn := true, hold := true }
  let s := sm m
  let pec (bs : List Byte) : Option Byte := some (pecOf (0xB0 :: 0x0A :: bs))
  let pec' (bs : List Byte) : Option Byte := some (pecOf (0xBA :: bs))
  let low := sm { m with modEn := false }
  [m.answers, pec [] != pec' [],
   doesMod s (.clearFaults (pec' [3])) { m with stInput := 0, stTemp := 0, stCml := 0, stMfr := 0, alert := false, out := [.smbusAck] }
     s.w s.e,
   doesMod s (.mfrWake none) { m with hold := false, out := [.smbusAck] } s.w s.e,
   doesMod low (.mfrWake (pec' [0xD0])) { low.mod with stMfr := 3, out := [.smbusAck] } s.w s.e,
   doesMod (sm { m with hold := false }) (.mfrGoDormant none) { m with out := [.smbusAck] } s.w s.e,
   doesMod s (.mfrRtcWrite 0xFFFFFFFFFFFF none) { m with rtc := 0xFFFFFFFFFFFF, out := [.smbusAck] } s.w s.e,
   doesMod (sm { m with hold := false }) (.mfrDormantHoldSet 0x7F none) { m with out := [.smbusAck] } s.w s.e,
   doesMod s (.mfrDormantHoldClear 1 (pec' [0xD5, 2])) { m with hold := false, out := [.smbusAck] } s.w s.e,
   !smbusCodes.contains 0xD7 &&
     doesMod s (.smbusInvalidCommand 0xD7) { m with stCml := 0xA0, out := [.smbusNack] } s.w s.e,
   after (.smbusInvalidCommand 0xFF) (sm dormant) fun t => t.mod.alert,
   doesMod s (.mfrWake (some 0)) { m with stCml := 0x20, out := [.smbusNack] } s.w s.e,
   doesMod (sm { m with alert := true }) (.alertResponse false) { m with out := [.smbus [0xBA]] } s.w s.e,
   doesMod s .smbusClockLowTimeout { m with out := [] } s.w s.e]

theorem witness_keeperWrites : keeperWrites.all id = true := by decide +kernel

/-- The module comes up from OFF to BOOTING. -/
def comesUp : List Bool :=
  let nv : NvRecord := ⟨9, 8, 7, 6⟩
  let off := sm { Module.reset with nv := nv } boot
  let ins := sm { Module.reset with phase := .inserting, present := true } boot
  let closed := { dormant with sw := true, conv := false, good := false }
  let ramped := sm { dormant with sw := true, conv := true } { boot with keep := ⟨3, 0x7F⟩, cst := { boot.cst with flash := [(5, 7)] } }
  let takes (ok : Bool) (n : Nat) : Bool := after (.keeperStart 5 ok true true) off fun t =>
    decide (t.mod.phase = .inserting ∧ t.mod.maddr = 5 ∧ t.mod.ejectClosed = true) && t.mod.rtc.toNat == n && t.mod.nv == nv
  [takes true 9, takes false 0,
   doesMod ins .insertionSettled { ins.mod with phase := .dormant, out := [] } ins.w ins.e,
   doesMod (sm dormant boot) .inputSwitchClose closed boot { boot with id := .E },
   doesMod (sm closed boot) .bulkRampDone { closed with conv := true } boot { boot with id := .E },
   after (.powerGood true false) ramped fun t =>
     decide (t.mod = { ramped.mod with good := true, diesUp := true, phase := .on } ∧ t.w.power = .booting ∧ t.e.id = .E ∧
       t.w.cst.flash = [(5, 7)] ∧ t.w.keep = ⟨3, 0x3B⟩)]

theorem witness_comesUp : comesUp.all id = true := by decide +kernel

/-- The switch opens on its faults; the counts saturate. -/
def trips : List Bool :=
  let m := { used with uv := 0xFFFFFFFF, ov := 4 }
  let s := sm m boot
  let opened := { m with sw := false, conv := false, good := false, phase := .dormant, alert := true }
  let y (x : Die) (b : Nat) : Die := { x.immediateHandoff with keep := ⟨1, BitVec.ofNat 7 b⟩ }
  let on := sm { used with meas := ⟨0, 0, 0, 0, 0⟩ } boot
  [doesMod s .undervoltage { opened with stInput := 0x18, lastOff := 3 } (y s.w 1) (y s.e 1),
   doesMod s .overvoltage { opened with alert := false, stInput := 0x80, ov := 5, lastOff := 4 } (y s.w 2) (y s.e 2),
   after .overvoltage (sm m { boot with keep := ⟨0, 0⟩ }) fun t => t.mod.hold,
   after .undervoltage (sm { m with drydown := some 6, uv := 0 } boot) fun t => decide (t.mod.lastOff = 6 ∧ t.mod.uv = 1),
   after .inrushFault (sm { dormant with sw := true } boot) fun t =>
     decide (t.mod.phase = .faultHold ∧ t.mod.fault = some .inrush ∧ t.mod.stMfr = 2 ∧ t.w.keep.status = 0x10),
   after .converterStartTimeout (sm { dormant with sw := true, conv := true } boot) fun t =>
     decide (t.mod.phase = .faultHold ∧ t.mod.fault = some .rail ∧ t.mod.stMfr = 4 ∧ t.e.keep.status = 0x20),
   after .railFault on fun t => decide (t.mod.phase = .faultHold ∧ t.mod.lastOff = 8 ∧ t.mod.sw = false),
   after (.thermalTrip .E 501 300) on fun t =>
     decide (t.mod.phase = .faultHold ∧ t.mod.meas.dieE = 501 ∧ t.mod.stTemp = 0x80 ∧ t.w.keep.status = 8) &&
       t.w.get F.evtCode == 7 && t.w.get F.evtDetail == 501 + 65536 * 300,
   after (.thermalTrip .E 500 300) on fun t => decide (t.mod.phase = .on),
   doesMod on (.thermalWarn 381)
     { on.mod with warn := true, stTemp := 0x40, alert := true, meas := ⟨0, 0, 381, 0, 0⟩ } { boot with keep := ⟨1, 4⟩ }
       { boot with id := .E, keep := ⟨1, 4⟩ },
   after (.thermalWarn 381) on fun t => t.e.get F.evtCode == 6 && t.e.get F.evtDetail == 381,
   doesMod (sm { used with warn := true } boot) (.thermalWarnEnd 380) { used with meas := ⟨0, 0, 380, 0, 0⟩ } boot
     { boot with id := .E },
   (sm { used with warn := true } { boot with keep := ⟨2, 0⟩ }).faultL, !(sm { used with warn := true } boot).faultL]

theorem witness_trips : trips.all id = true := by decide +kernel

/-- Drydown and the ways to OFF. -/
def goesOff : List Bool :=
  let s := sm used
  let b := sm used boot
  let dry := sm { used with drydown := some 6 } { act with power := .drydown, forwarding := false }
  let down := { used with sw := false, conv := false, good := false, phase := .dormant, out := [] }
  let starts (c : Instr) (n : BitVec 4) (hold : Bool) : Bool := after c s fun t =>
    decide (t.mod.drydown = some n ∧ t.mod.hold = hold ∧ t.w.power = .drydown ∧ t.e.power = .drydown ∧ t.mod.phase = .on)
  let held := sm { dormant with phase := .faultHold, fault := some .rail, modEn := false, modEnFell := true }
  let nv : NvRecord := ⟨5, 1, 2, 3⟩
  let kept := { dormant with rtc := 5, uv := 1, ov := 2, lastOff := 3 }
  [starts .ejectLFiltered 2 false, starts .modEnLow 6 false, starts (.mfrGoDormant none) 6 true,
   starts (.mfrDormantHoldSet 0 none) 6 true,
   doesMod b .ejectLFiltered { down with ejectClosed := true, lastOff := 2 } { boot with keep := ⟨1, 0x40⟩ }
     { boot with id := .E, keep := ⟨1, 0x40⟩ },
   doesMod b .modEnLow { down with modEn := false, modEnFell := true, lastOff := 6 } b.w b.e,
   dry.w.drydownDone && doesMod dry .drydownComplete { down with lastOff := 6 } dry.w dry.e,
   doesMod (sm { used with ejectClosed := true }) .ejectLRelease used s.w s.e,
   doesMod (sm { dormant with modEn := false, hold := true }) .modEnRise dormant s.w s.e,
   doesMod held .modEnRise dormant s.w s.e,
   doesMod (sm dormant) (.rtcTick ⟨1, 2, 3, 4, 5⟩) { dormant with rtc := 1, cool := 1, meas := ⟨1, 2, 3, 4, 5⟩ } s.w s.e,
   doesMod (sm kept) .rtcSave { kept with nv := nv, out := [.nvWrite] } s.w s.e,
   doesMod (sm kept) .keeperStop { kept with nv := nv, phase := .off, out := [.nvWrite] } s.w s.e,
   after .presentLOpen s fun t => decide (t.mod.phase = .off ∧ t.mod.lastOff = 1 ∧ t.mod.sw = false ∧ t.mod.present = false),
   after .bulkDepleted (sm { used with sw := false, conv := false, good := false, phase := .dormant }) fun t =>
     decide (t.mod.diesUp = false ∧ t.w.power = .booting)]

theorem witness_goesOff : goesOff.all id = true := by decide +kernel

/-- REFCLK and holdover. -/
def refclk : List Bool :=
  let ok := boot.flag F.refclkOk true
  let held := (boot.flag F.holdover true)
  let slew := { held with clk := { held.clk with slewing := true } }
  let own := ((act.flag F.refclkOk true).flag F.scanOwn true)
  [does (.cclkLock .W) boot ((boot.flag F.refclkOk true).flag F.cclkLock true),
   does (.cclkLock .W) { boot with clk := { boot.clk with phase := .held } }
     { (boot.flag F.refclkOk true).flag F.cclkLock true with clk := { boot.clk with phase := .locking false } },
   does (.bootRefclkTimeout .W) boot { boot with clk := { boot.clk with bootLost := true } },
   raises (.bootRefclkTimeout .W) boot 0x10 0,
   does (.refclkLost .W) ok { (((boot.flag F.refclkOk true).flag F.refclkOk false).flag F.cclkLock false).flag F.holdover true with
     sti := { boot.sti with barred := true } },
   raises (.refclkLost .W) ok 0x10 0,
   ends (.refclkLost .W) own fun z => decide (z.power = .active) && z.on F.silRefclk && z.on F.holdover && !z.on F.refclkOk,
   does (.refclkHoldoverExpired .W) held { held.flag F.holdoverExpired true with clk := { held.clk with txOff := true } },
   raises (.refclkHoldoverExpired .W) held 0x12 0,
   does (.refclkReturn .W) held { held.flag F.refclkOk true with clk := { held.clk with slewing := true } },
   does (.refclkRestored .W) slew ((boot.flag F.holdover false).flag F.cclkLock true), raises (.refclkRestored .W) slew 0x11 0]

theorem witness_refclk : refclk.all id = true := by decide +kernel

/-- GCLK requests at the ends of their range, and their course. -/
def gclk : List Bool :=
  let at' (p : GclkPhase) (x : Die) : Die := { x with clk := { x.clk with phase := p, target := 0x100000 } }
  let run := ((act.flag F.gclkRun true).put F.gclkCur 0x100000)
  let req (x : Die) (w : Nat) : Die :=
    (({ x.put F.gclkNext w with clk := { x.clk with phase := .locking false, target := w, cmd := none } }.flag F.gclkPend true).flag
      F.gclkIdleLock false)
  let dones (x : Die) (syn : Nat) : Die := ((((x.flag F.gclkRun true).put F.gclkSyn syn).put F.gclkCur 0x100000).bump
    F.gclkSwitches).gclkIdle
  [does (.gclkRequest .W 0x033333) act act, raises (.gclkRequest .W 0xFF033333) act 0x16 0x033333,
   raises (.gclkRequest .W 0x666667) act 0x16 0x666667,
   does (.gclkRequest .W 0x033334) act (req act 0x033334), does (.gclkRequest .W 0x666666) act (req act 0x666666),
   ends (.gclkRequest .W 0x033334) boot fun z => z.clk.phase == .held,
   does (.gclkRequest .W 0x100000) run (run.put F.gclkNext 0x100000),
   does (.gclkIdleLock .W) (at' (.locking true) act) ((at' .settling act).flag F.gclkIdleLock true),
   does (.gclkLockTimeout .W) (at' (.locking false) act) (at' (.locking true) act),
   does (.gclkLockTimeout .W) (at' (.locking true) act) ((at' (.locking true) act).gclkIdle.bump F.gclkLockFails),
   raises (.gclkLockTimeout .W) (at' (.locking true) act) 0x15 0x100000,
   does (.gclkSettleDone .W) (at' .settling run) (at' .waiting run),
   does (.gclkSettleDone .W) (at' .settling act) (dones (at' .waiting act) 0),
   raises (.gclkSettleDone .W) (at' .settling act) 0x14 0x100000,
   does (.gclkSwitch .W) (at' .waiting run) (dones (at' .waiting run) 1),
   raises (.gclkSwitch .W) (at' .waiting run) 0x14 0x100000]

theorem witness_gclk : gclk.all id = true := by decide +kernel

/-- A slip, the segment length and the LDB rate. -/
def clockSettings : List Bool :=
  let q := act.flag F.qEnable true
  let e := act.flag F.ldbEn true
  let r := e.flag F.gclkRun true
  [raises (.ebSlip .W 3) q 0x17 (laneDetail 3),
   ends (.ebSlip .W 3) (q.put F.ebSlips 0xFFFFFFFF) fun z => z.get F.ebSlips == 0xFFFFFFFF && (z.lane 3).slipped,
   does (.gclkSegWrite .W 12) act (act.put F.segLog2 12),
   does (.gclkSegWrite .W 15) e (e.put F.segLog2 15), does (.gclkSegWrite .W 15) r r,
   raises (.gclkSegWrite .W 9) r 0xAC (refusedDetail 0x040C 9),
   does (.ldbRateWrite .W 4) act (act.put F.ldbRate 4), does (.ldbRateWrite .W 5) act act,
   raises (.ldbRateWrite .W 5) act 0x18 (refusedDetail 0x0410 5), raises (.ldbRateWrite .W 2) e 0x18 (refusedDetail 0x0410 2)]

theorem witness_clockSettings : clockSettings.all id = true := by decide +kernel

/-- A die whose port is on, with every lane in state `n` on the input of its own number; lanes in ACTIVE are in traffic. -/
def port (n : Nat) (x : Die := act) : Die :=
  (lanesAll.foldl (fun (x : Die) k => (x.laneTo k n).put (F.lanePhys k.val) k.val) (x.flag F.qEnable true)).put F.traffic
    (if n = 6 then 15 else 0)

/-- A TS of logical lane 2 at rate 0 that shows every RX_READY bit, asks out-lane 1 for PRE 15 and POST 31, and echoes 3 and 5. -/
def tsBlock2 : BitVec 64 :=
  laneBlock (0xD2 + 2 ^ 8 * 2 + 2 ^ 14 * 15 + 2 ^ 20 + 2 ^ 21 * 1 + 2 ^ 23 * 15 + 2 ^ 27 * 31 + 2 ^ 32 * 3 + 2 ^ 36 * 5)

/-- QPHY_CFG. -/
def portSettings : List Bool :=
  let b := { act with power := .active }.flag F.bootDone true
  let x := (b.put F.txPre 15).put F.txPost 31
  let q := port 6 b
  [b.barOpen,
   ends (.qphyEnable .W 2) x fun z => z.on F.qEnable && z.get F.qRate == 2 && z.get F.traffic == 0 && lanesAll.all fun k =>
     z.laneSt k == 1 && (z.lane k).port && z.get (F.tapPre k.val) == 15 && z.get (F.tapPost k.val) == 21,
   ends (.qphyDisable .W 8) q fun z => !z.on F.qEnable && z.get F.retune == 1 && lanesAll.all fun k => z.laneSt k == 0,
   ends (.qphyRateWrite .W 3) b fun z => z.get F.qRate == 3 && z.qphy == b.qphy,
   ends (.qphyRateWrite .W 0x13) q fun z => z.get F.qRate == 0 && z.qphy == q.qphy,
   raises (.qphyRateWrite .W 0x13) q 0x2E (refusedDetail 0x1000 0x13)]

theorem witness_portSettings : portSettings.all id = true := by decide +kernel

/-- A lane through training; every way that an attempt fails. -/
def training : List Bool :=
  let l0 := LaneState.reset
  let at' (n : Nat) (l : LaneState) : Die := (port n).setLane 2 l
  let t20 : TapSearch := ⟨2, 3, some (9, 9, 4, 6), (4, 6)⟩
  let ts := laneBlock (0xD2 + 2 ^ 18)
  let v := ((port 5).put F.minH 7).put F.minW 8
  let took (x : Die) : Die := x.tookBlock (Fin.ofNat 4 (x.get (F.lanePhys 2))) (x.on (F.laneInv 2)) tsBlock2
  let p3 := at' 3 { l0 with port := true, outTs := true }
  let y3 := took p3
  let z3 := took (port 3)
  let echo (x : Die) (p : Nat × Nat) : Die := (x.put (F.tapRpre 2) p.1).put (F.tapRpost 2) p.2
  [does (.laneDetect .W 2) (port 1) (LaneAt (port 1) 2 2 l0),
   does (.laneDetect .W 2) (at' 1 { l0 with port := true }) (TsSent (LaneAt (port 1) 2 2 { l0 with port := true, outTs := true }) 2),
   does (.cdrLock .W 2) (port 2) (LaneAt (port 2) 2 3 l0),
   does (.cdrLock .W 2) (at' 2 { l0 with outTs := true }) (TsSent (LaneAt (port 2) 2 3 { l0 with outTs := true }) 2),
   isTs tsBlock2, does (.blockLock .W 2 tsBlock2) p3
     (TsSent (LaneAt y3 2 4 { y3.lane 2 with search := some tapStart, req := some (0, 0), tuned := true }) 2),
   does (.blockLock .W 2 tsBlock2) (port 3) (LaneAt z3 2 5 { z3.lane 2 with tuned := false }),
   does (.tapTunePointDone .W 2 9 9) (echo (at' 4 { l0 with search := some tapStart, req := some (0, 0) }) (0, 0))
     ((echo (port 4) (0, 0)).setLane 2 { l0 with search := some (tapStart.step 9 9), req := some (0, 4) }),
   does (.tapTunePointDone .W 2 8 9) (echo (at' 4 { l0 with search := some t20, req := some (4, 6) }) (4, 6))
     (LaneAt (echo (port 4) (4, 6)) 2 5 { l0 with req := some (4, 6) }),
   does (.tapTunePointDone .W 2 9 9) (echo (at' 4 { l0 with search := some t20, req := some (4, 6) }) (4, 5))
     (echo (at' 4 { l0 with search := some t20, req := some (4, 6) }) (4, 5)),
   does (.laneTapEchoMismatch .W 2) (echo (at' 4 { l0 with search := some tapStart, req := some (0, 0) }) (1, 0))
     (LaneAt (echo (port 4) (1, 0)) 2 5 l0),
   raises (.laneTapEchoMismatch .W 2) (echo (at' 4 { l0 with req := some (0, 0) }) (1, 0)) 0x27 2,
   does (.verifyPass .W 2 7 8) v (v.setLane 2 { l0 with verified := true }),
   does (.verifyPass .W 2 7 8) (v.setLane 2 { l0 with tuned := true })
     (((v.setLane 2 { l0 with verified := true, tuned := true }).put (F.eyeVH 2) 7).put (F.eyeVW 2) 8),
   ends (.verifyPass .W 2 7 8) (v.setLane 2 { l0 with port := true, readyRun := 8, failRun := 2 }) fun z =>
     z.laneSt 2 == 6 && (z.lane 2).failRun == 0,
   does (.laneFailedRetry .W 2) (port 8) (LaneAt (port 8) 2 1 { l0 with retrying := true }),
   [(2, 1), (3, 2), (5, 1)].all fun (st, n) =>
     ends (.laneTrainTimeout .W 2) (port st) (fun z => z.laneSt 2 == n && z.get (F.trainFails 2) == 1) &&
     raises (.laneTrainTimeout .W 2) (port st) 0x23 (2 + 16 * st) &&
     ends (.laneTrainTimeout .W 2) (at' st { l0 with failRun := 2 }) (fun z => z.laneSt 2 == 8 && z.get F.evtCode == 0x24),
   ends (.laneTrainTimeout .W 2) (at' 4 { l0 with search := some t20 }) fun z => z.laneSt 2 == 5 && (z.lane 2).req == some (4, 6),
   ends (.blockLock .W 2 ts) (port 3) fun z => z.laneSt 2 == 1 && (z.lane 2).failRun == 1,
   raises (.blockLock .W 2 ts) (port 3) 0x2D (2 + 256)]

theorem witness_training : training.all id = true := by decide +kernel

/-- Blocks of the lanes, service and margin. -/
def laneBlocks : List Bool :=
  let l0 := LaneState.reset
  let x := port 5
  let r := x.setLane 2 { l0 with verified := true, port := true, readyRun := 7 }
  let ls := laneBlock (0xD4 + 2 ^ 10 * 5 + 2 ^ 14 * 1 + 2 ^ 18 * 6 + 2 ^ 22 * 3 + 2 ^ 24)
  let a := port 6
  let s7 := (a.laneTo 2 7).flag (F.prbsSync 2) true
  let j : Job := ⟨⟨0x12, false, [1, 2, 3, 4], 9⟩, [], true⟩
  let sj := { s7 with hif := { s7.hif with service := some j, logging := false } }
  let m := (a.put F.marginPeriod 1).put F.minH 9
  let tried (y : Die) : Die := y.setLane 2 { y.lane 2 with prbsTried := true }
  [ends (.tsReceive .W 2 false tsBlock2) r fun z => z.get (F.tapRpre 2) == 3 && z.get (F.tapRpost 2) == 5 &&
     z.get (F.tapPre 1) == 15 && z.get (F.tapPost 1) == 21 && z.laneSt 2 == 6,
   ends (.tsReceive .W 1 true tsBlock2) x fun z => z.get F.evtCode == 0x26 && z.qphy.orderRaised &&
     z.get (F.lanePhys 2) == 1 && z.on (F.laneInv 2),
   isLs ls, ends (.lsReceive .W ls) a fun z => (z.lane 1).outPrbs == some (3, true) &&
     (z.lane 2).outPrbs == some (3, true) && (z.lane 0).outTs && !(z.lane 0).outJoin && (z.lane 0).outPrbs == none,
   does (.prbsSync .W 2) (a.laneTo 2 7) (tried s7), raises (.prbsNoSync .W 2) (a.laneTo 2 7) 0x2B 2,
   does (.prbsNoSync .W 2) (a.laneTo 2 7) (tried (a.laneTo 2 7)),
   does (.prbsNoSync .W 2) (tried (a.laneTo 2 7)) (tried (a.laneTo 2 7)),
   ends (.prbsSyncLoss .W 2 3 (2 ^ 48)) s7 fun z => !z.on (F.prbsSync 2) && z.get (F.prbsErr 2) == 3 &&
     z.get (F.prbsBitsLo 2) == 0xFFFFFFFF && z.get (F.prbsBitsHi 2) == 0xFFFF,
   ends (.laneServiceEnd .W 2 0xFFFFFFFF 5) s7 fun z => z.laneSt 2 == 5 && z.get (F.prbsErr 2) == 0xFFFFFFFF,
   emits (.laneServiceEnd .W 2 0 0) sj (sj.completionOut j.cmd 0 0),
   ends (.laneLockLost .W 3) a fun z => z.laneSt 3 == 2 && (z.lane 3).retrainReq && z.get F.traffic == 7 && z.laneSt 0 == 6,
   ends (.laneLockLost .W 3) (((a.laneTo 0 2).laneTo 1 5).laneTo 2 8) fun z => lanesAll.all fun k => z.laneSt k == 1 && (z.lane k).port,
   ends (.marginCrossScan .W 1 8 200) m fun z => z.get (F.eyeH 1) == 8 && z.get (F.eyeW 1) == 200 && (z.lane 1).lowRaised,
   raises (.marginCrossScan .W 1 8 200) m 0x28 (laneDetail 1 0 8 200),
   ends (.lanePartnerAsleep .W) { a with acd := { a.acd with nbrLeaving := true } } fun z =>
     z.laneSt 0 == 6 && z.laneSt 3 == 9 && z.get F.traffic == 1]

theorem witness_laneBlocks : laneBlocks.all id = true := by decide +kernel

/-- A block as it is on the air after a scrambler at rest. -/
def air (b : BitVec 66) : BitVec 66 := BitVec.ofNat 66 (syncHdr b * 2 ^ 64 + (scramble 64 (pay64 b) 0).1)

/-- Scrambling, and stripes with zero, one and two invalid blocks; the first block opens a parcel. -/
def stripes : List Bool :=
  let x := port 6
  let p := parcelBlocks (List.replicate 15 1 ++ List.replicate 8 0)
  let b (i : Nat) : BitVec 66 := p.getD i 0
  let par := b 0 ^^^ b 1 ^^^ b 2
  let rx (c0 c1 c2 c3 : BitVec 66) (q : Die → Bool) : Bool := ends (.stripeReceive .W c0 c1 c2 c3) x q
  let open' : RxOpen := .known ((List.replicate 15 1).take 7 ++ blockBytes (b 1) 0 ++ blockBytes (b 2) 0) 33 false
  [descramble 64 (scramble 64 0x0123456789ABCDEF 0x3FFFFFFFFFFFFFF).1 0x3FFFFFFFFFFFFFF ==
     (0x0123456789ABCDEF, (scramble 64 0x0123456789ABCDEF 0x3FFFFFFFFFFFFFF).2),
   rx (air par) (air (b 0)) (air (b 1)) (air (b 2)) fun z => z.pcl.rxStripe == 1 && z.get F.pclRecon == 0 && z.get F.pclParity == 0 &&
     (match z.pcl.rx with | .known h _ _ => h.take 15 == List.replicate 15 1 | _ => false),
   rx (air par) (air (b 0)) (air (b 1)) (air (b 2 ^^^ 1)) fun z => z.get F.pclParity == 1,
   rx (air par) (air (b 0)) 0 (air (b 2)) fun z => z.get F.pclRecon == 1 && !z.on F.double &&
     after (.stripeReceive .W (air par) (air (b 0)) (air (b 1)) (air (b 2))) (st x) fun t => z.pcl.rx == t.w.pcl.rx && z.pcl.rx != open',
   rx 0 (air (b 0)) 0 (air (b 2)) fun z => z.on F.double && z.pcl.badStripe]

theorem witness_stripes : stripes.all id = true := by decide +kernel

/-- CC slots, and what leaves at a parcel boundary. -/
def slots : List Bool :=
  let i := air idleBlock
  let wait := ((port 6).setLane 1 { LaneState.reset with verified := true }).laneTo 1 5
  let x := wait.put F.traffic 13
  let sealed := sealParcel (cvuSel act 0)
  let loc : TxLocal := ⟨mkHeader 3 false false 0 1 0 0 7 0 0 8 ++ List.replicate 8 9, false⟩
  let tim : TxLocal := ⟨mkHeader 4 false false 0xFE 1 0 0 0 0 0 36 ++ List.replicate 36 2, false⟩
  let fwd := sealed (mkHeader 2 false false 4 1 0 0 3 0 0 8 ++ List.replicate 8 4) 77
  let q (f : List (List Byte)) (l t : List TxLocal) (turn : Bool) : Die :=
    { port 6 with pcl := { Pcl.reset with fwdQ := f, locQ := l, timeQ := t, localTurn := turn } }
  [ends (.ccSlotReceive .W i i i i) x fun z => z.pcl.rxStripe == 0 && z.laneSt 1 == 6 && z.inTraffic 1 && z.laneSt 3 == 6,
   ends (.ccSlotReceive .W i i 0 i) (port 6) fun z => z.pcl.rxStripe == 0,
   ends (.ccSlotSend .W) (port 6) fun z => z.qphy.lsLast == (port 6).lsFields && z.out.any fun o => match o with
     | .blocks c0 _ _ c3 => c0 == air (ctrlBlock (laneBlock (port 6).lsFields).toNat) &&
         c3 == air (ctrlBlock (laneBlock ((port 6).lsFields + 2 ^ 8 * 3)).toNat)
     | _ => false,
   ends (.ccSlotSend .W) { port 6 with qphy := { (port 6).qphy with lsLast := (port 6).lsFields, lsAge := 16 } } fun z => z.out.any fun o =>
     match o with | .blocks c0 _ _ _ => c0 == i | _ => false,
   does (.ccSlotMissing .W) (port 6) { port 6 with pcl := { Pcl.reset with ccMissing := true } },
   raises (.ccSlotMissing .W) (port 6) 0x3A 0,
   does (.parcelOpenTimeout .W) { act with pcl := { Pcl.reset with rx := .open (List.replicate 15 0) 7203 } } (act.bump F.pclFail),
   ends (.parcelTransmit .W) (q [fwd] [loc] [tim] true) fun z => z.out.contains (.parcel (sealed tim.bytes 0)) && z.pcl.timeQ.isEmpty &&
     z.pcl.fwdQ.length == 1 && look z.pcl.txAlive 9 == some 1,
   ends (.parcelTransmit .W) (q [fwd] [loc] [] true) fun z => z.out.contains (.parcel (sealed loc.bytes 0)) && z.pcl.locQ.isEmpty &&
     !z.pcl.localTurn,
   ends (.parcelTransmit .W) (q [fwd] [loc] [] false) fun z => z.out.contains (.parcel fwd) && z.pcl.fwdQ.isEmpty && z.pcl.localTurn]

theorem witness_slots : slots.all id = true := by decide +kernel

/-- A parcel of `x`'s algorithm, whole, with `a` in its alive counter. -/
def pk (h : List Byte) (pay : List Byte) (a : BitVec 16 := 0) : RxParcel := ⟨sealParcel (cvuSel act 0) (h ++ pay) a, false⟩

/-- The port served by die W of module 5. -/
def own : Die := (port 6).put F.pclAddr 5

/-- What every parcel goes through; a STAT of another module is the example. -/
def checks : List Bool :=
  let p := pk (mkHeader 5 false false 0 9 0 0 0 0 0 32) (List.replicate 32 1) 40
  let c : Instr := .statReceive .W p
  let bad : RxParcel := ⟨p.bytes.set 20 0, false⟩
  let keyed (a : BitVec 16) (x : Die) : Die := { x with pcl := { x.pcl with rxAlive := [(keyOf p, a)] } }
  let other := { own with pcl := { own.pcl with rxDone := [(p, cvuSel act 0)] } }
  let far := pk (mkHeader 2 false false 4 9 0 0 0 0 0 8) (List.replicate 8 0) 40
  let up := other.put F.stiState 2
  let none' := pk (mkHeader 5 false false 0 9 0 0 0 0 0 57601) []
  [does c (act.flag F.qEnable false) act, does c { own with power := .booting } { own with power := .booting },
   pLen none'.bytes == 57601 && does (.statReceive .W none') own (own.bump F.pclFormat),
   does (.statReceive .W bad) own ((own.bump (F.cvuFail 0)).bump F.pclFail),
   does (.statReceive .W { p with lost := true }) own ((own.bump (F.cvuFail 0)).bump F.pclFail),
   does c (keyed 40 own) ((Counted (keyed 40 own) p).bump (F.cvuRepeat 0)),
   does (.ctrlParcelReceive .W far) { own with pcl := { own.pcl with rxAlive := [(keyOf far, 10)] } }
     ((Kept ((Counted { own with pcl := { own.pcl with rxAlive := [(keyOf far, 10)] } } far).bump (F.cvuGap 0) 29) far).forward far.bytes),
   does (.ctrlParcelReceive .W far) own ((Taken own far).forward far.bytes),
   emits (.ctrlParcelReceive .W far) up (.stiParcel (HeadOf up 3 far.bytes) ⟨.received, far.bytes⟩),
   does c other ((Taken other p).forward p.bytes)]

theorem witness_checks : checks.all id = true := by decide +kernel

/-- A die with a half of 0 × 16 (two slices), DRAM open to its decoder, and frame 7 in its pending slot. -/
def shown : Die :=
  let x := (((own.put F.halfW 0).put F.halfH 16).put (F.rgnFlags 0) 0x1F).put (F.rgnSize 0) 0x70000
  x.setBuf 1 { FrameBuf.free with frame := some 7 }

/-- A slice of a frame: CODEC 2 carries 15 bytes for each block of 4 columns, in two rows, over the half and its 16 beyond it. -/
def video (frame slice len : Nat) : RxParcel :=
  pk (mkHeader 1 false false 5 9 0 0 frame slice 2 len) (List.replicate len 0xA5)

/-- VIDEO parcels. -/
def slices : List Bool :=
  let y (p : RxParcel) (n : Nat) : Die :=
    let x := shown
    { Taken x p with acd := { x.acd with videoSeen := some n } }
  let n := 2 * 4 * 15
  let held := shown.setBuf 1 { frame := some 7, settled := false, slices := [(0, 7, n, 2)], held := 0 }
  let p := video 7 1 n
  let q := video 7 0 n
  let old := video 6 0 n
  [does (.videoParcelReceive .W (video 7 2 n)) shown ((y (video 7 2 n) 7).forward (video 7 2 n).bytes),
   raises (.videoParcelReceive .W (video 7 2 n)) shown 0x39 (1 + 256 * 9 + 65536 * 2),
   does (.videoParcelReceive .W q) held
     ((({ Taken held q with acd := { held.acd with videoSeen := some 7 } } : Die).bump F.pclCopy).forward q.bytes),
   does (.videoParcelReceive .W old) shown (((y old 6).bump F.pclStale).forward old.bytes),
   raises (.videoParcelReceive .W old) shown 0x34 (1 + 256 * 9),
   shown.slices == 2 && shown.placeAt 1 1 == 0x800000 + 57600,
   ends (.videoParcelReceive .W p) shown fun z => z.peek true (0x800000 + 57600) n == List.replicate n 0xA5 &&
     (z.buf 1).slices == [(1, 7, n, 2)] && !(z.buf 1).settled && z.mem.scratch.isEmpty && z.mem.dram.length == n]

theorem witness_slices : slices.all id = true := by decide +kernel

/-- A wall command in a CTRL parcel of module 9 for module 5. -/
def ctrl (seq : Nat) (body : List Byte) : RxParcel :=
  pk (mkHeader 2 false false 5 9 0 0 seq 0 0 body.length) body

def wallNopBody : List Byte := List.replicate 8 0

/-- CTRL parcels, and what they are answered with. -/
def controls : List Bool :=
  let x := own
  let p (seq : Nat) : RxParcel := ctrl seq wallNopBody
  let c (seq : Nat) : Instr := .ctrlParcelReceive .W (p seq)
  let ans (code dup high map : Nat) (seq : Nat) (z : Die) : Bool := z.pcl.locQ == [answerTo x (p seq).bytes code dup high map]
  let w : Window := { newWindow (p 100).bytes with map := 5 }
  let win := { x with pcl := { x.pcl with windows := [w] } }
  let cmd : WallCmd := ⟨9, false, 0, false, wallNopBody⟩
  let full (y : Die) : Die := { y with pcl := { y.pcl with wallQ := List.replicate 16 cmd } }
  let bad := ctrl 100 (0xFF :: List.replicate 7 0)
  [ends (c 100) (x.flag F.authRequire true) fun z => ans 3 0 0 0 100 z && z.pcl.wallQ.isEmpty,
   raises (c 100) (x.flag F.authRequire true) 0x48 (256 * 9 + 65536 * 100),
   ends (.ctrlParcelReceive .W bad) x fun z => z.pcl.locQ == [answerTo x bad.bytes 4 0 0 0] && z.pcl.wallQ.isEmpty,
   ends (c 100) x fun z => z.pcl.wallQ == [⟨9, false, 100, false, wallNopBody⟩] && z.pcl.windows == [newWindow (p 100).bytes] &&
     ans 0 0 100 1 100 z && z.get F.wallDepth == 1,
   ends (c 100) (full x) fun z => z.pcl.wallQ.length == 16 && ans 1 0 0 0 100 z && z.get F.nakBusyCount == 1,
   ends (c 101) win fun z => ans 0 0 101 11 101 z && z.pcl.wallQ.length == 1 && z.window (p 101).bytes == some { w with high := 101, map := 11 },
   ends (c (100 + 32767)) win fun z => ans 0 0 (100 + 32767) 1 (100 + 32767) z,
   ends (c 98) win fun z => ans 0 1 100 5 98 z && z.pcl.wallQ.isEmpty && z.get F.pclCtrlDup == 1,
   ends (c 69) win fun z => ans 0 0 100 (5 + 2 ^ 31) 69 z && z.pcl.wallQ.length == 1,
   ends (c 68) win fun z => ans 2 0 100 5 68 z && z.pcl.wallQ.isEmpty, raises (c 68) win 0x36 (256 * 9 + 65536 * 68),
   ends (c (100 + 32768)) win fun z => ans 2 0 100 5 (100 + 32768) z,
   ends (c 101) (full win) fun z => ans 1 0 100 5 101 z]

theorem witness_controls : controls.all id = true := by decide +kernel

/-- An origin's commands and answers. -/
def origins : List Bool :=
  let x := own
  let unk := pk (mkHeader 6 false false 5 9 0 0 0 0 0 8) (List.replicate 8 0)
  let stat := pk (mkHeader 5 false false 5 9 1 0 0 0 0 32) (List.replicate 32 0)
  let body := mkHeader 2 false false 9 5 0 0 7 0 0 8 ++ wallNopBody
  let o : Outstanding := ⟨9, 7, body, false, true, false, none, none, 0, 1, 0, false, none, false, none⟩
  let out (o : Outstanding) : Die := { x with pcl := { x.pcl with outstanding := [o] } }
  let ack := pk (mkHeader 3 false false 5 9 0 0 7 0 0 8) (List.replicate 8 0)
  let sends := { (x.flag F.statEn true) with acd := { x.acd with ownA := 3 } }
  let nb := { o with needW := false, nakW := some 1, busy := 7 }
  let again := body.set 0 0x12
  [does (.parcelTypeUnknown .W unk) x ((Taken x unk).forward unk.bytes), raises (.parcelTypeUnknown .W unk) x 0x38 (6 + 256 * 9),
   does (.statReceive .W stat) x ((Taken x stat).forward stat.bytes),
   does (.statSend .W) sends { sends with pcl := { sends.pcl with
     heldSince := 0, locQ := [⟨sends.statParcel ⟨used, .active, false⟩ 0 0 (List.replicate 8 0), false⟩] } },
   o.matches ack.bytes && x.originDie ack.bytes,
   does (.ackReceive .W ack) { out o with pcl := { (out o).pcl with missing := [9, 4] } }
     ({ Taken { out o with pcl := { (out o).pcl with missing := [9, 4] } } ack with
        pcl := { (Taken (out o) ack).pcl with missing := [4], outstanding := [] } }.forward ack.bytes),
   ends (.ctrlRetransmitTimeout .W 9 7) (out { o with retx := 3, sent := 4 }) fun z =>
     z.pcl.outstanding == [{ o with retx := 4, sent := 5 }] && z.pcl.locQ == [⟨again, false⟩] && z.get F.pclRetx == 1,
   does (.ctrlRetransmitTimeout .W 9 7) (out { o with retx := 4 }) { (out { o with retx := 4, missing := true }).bump F.pclMissing with
     pcl := { (out { o with retx := 4, missing := true }).pcl with missing := [9] } },
   raises (.ctrlRetransmitTimeout .W 9 7) (out { o with retx := 4 }) 0x35 (9 + 65536 * 7),
   ends (.nakBusyRetry .W 9 7) (out nb) fun z =>
     z.pcl.outstanding == [{ o with sent := 2, busy := 8 }] && z.pcl.locQ == [⟨again, false⟩]]

theorem witness_origins : origins.all id = true := by decide +kernel

/-- Wall commands at the head of the queue. -/
def wallCommands : List Bool :=
  let cmd (b : List Byte) : WallCmd := ⟨9, false, 44, false, b⟩
  let q (b : List Byte) (x : Die := own) : Die := { x with pcl := { x.pcl with wallQ := [cmd b] } }
  let long (b : List Byte) : List Byte := b ++ List.replicate (16 - b.length) 0
  let field (f v : Byte) : List Byte := [1, 0, 0, 0, 0, 0, 0, 0, f, 0, 0, 0, v, 0, 0, 0]
  let w' (f : Nat) (x : Die) : Die := { x with acd := { x.acd with wallSeqs := [(f, 44)] } }
  let done (y : Die) (b : List Byte) : Die := Executed y (cmd b) []
  let wait : List Byte := [0, 1, 0, 0, 0, 0, 0, 0]
  let full := { own with pcl := { own.pcl with deferred := List.replicate 16 (cmd wait) } }
  let addr0 := (own.put F.pclAddr 0).put F.hopsA 3
  let assign := long [3, 0, 0, 0, 0, 0, 0, 0, 0, 3, 0xF0]
  [does (.wallNop .W) (q wait) { own with pcl := { own.pcl with deferred := [cmd wait] } }.updQueue,
   does (.wallNop .W) (q wait full) (q wait full), does (.wallNop .W) (q wallNopBody) (done own wallNopBody),
   does (.wallSetField ⟨.W, false⟩) (q (field 1 200) (own.put F.own1 1)) (done (own.put F.own1 1) (field 1 200)),
   raises (.wallSetField ⟨.W, false⟩) (q (field 1 200) (own.put F.own1 1)) 0x4A 257,
   does (.wallSetField ⟨.W, false⟩) (q (field 1 200)) (done (FieldSet (w' 1 own) 1 200) (field 1 200)),
   does (.wallSetField ⟨.W, false⟩) (q (field 9 255)) (done (FieldSet (w' 9 own) 9 255) (field 9 255)),
   does (.wallSetField ⟨.W, false⟩) (q (field 4 0)) (done (w' 4 own) (field 4 0)),
   raises (.wallSetField ⟨.W, false⟩) (q (field 4 0)) 0x4B (4 + 256 + 65536 * 44),
   ends (.wallSetField ⟨.W, false⟩) (q (field 7 1) (own.flag F.scanOwn true)) fun z => z.acd.wallSil && z.on F.silWall && z.power == .active,
   does (.wallStatusQuery .W) (q (2 :: List.replicate 7 0)) (done { own with pcl := { own.pcl with
     locQ := [⟨own.statParcel ⟨used, .active, false⟩ 9 0 ([1, 0] ++ le 2 44 ++ [0, 0, 0, 0]), false⟩] } } (2 :: List.replicate 7 0)),
   does (.wallAddrAssign .W) (q assign addr0) (done (addr0.put F.pclAddr 0xF0) assign),
   does (.wallAddrAssign .W) (q assign) (done own assign),
   does (.wallRoleSet .W) (q (long [4, 0, 0, 0, 0, 0, 0, 0, 2])) (done (own.put F.role 2) (long [4, 0, 0, 0, 0, 0, 0, 0, 2])),
   does (.wallLatencySet .W) (q (long [5, 0, 0, 0, 0, 0, 0, 0, 0x40, 0x1F]))
     (done (own.put F.latencyUs 8000) (long [5, 0, 0, 0, 0, 0, 0, 0, 0x40, 0x1F]))]

theorem witness_wallCommands : wallCommands.all id = true := by decide +kernel

/-- A TIME parcel of KIND `kind` from module 9, next-hop or for every module. -/
def time (kind dst : Nat) (rest : List Byte) (len : Nat := 32) : RxParcel :=
  pk (mkHeader 4 false false dst 9 0 0 0 0 0 len) (le 1 kind ++ rest ++ List.replicate (len - 1 - rest.length) 0)

/-- Hop counts and time parcels out of form. -/
def hops : List Bool :=
  let x := own
  let y := { own with acd := { own.acd with ownA := 7, ownB := 8, farA := 6, farB := 9 } }
  let bad := time 5 0xFF []
  let short := time 5 0xFF [] 24
  [ends (.beaconReceive .W (time 2 0xFE [0xFE, 0])) x fun z => z.acd.ownA == 0xFF && z.acd.ownB == 0xFF,
   ends (.beaconReceive .W (time 2 0xFE [9, 0])) y fun z => z.acd.ownA == 10 && z.get F.hopsA == 6 && z.get F.hopsB == 8,
   ends (.beaconReceive .W (time 2 0xFE [4, 1])) y fun z => z.acd.ownB == 5 && z.get F.hopsB == 5 && z.get F.hopsA == 6,
   does (.timeParcelBadKind .W bad) x (((Taken x bad).bump F.badTime).forward bad.bytes),
   does (.timeParcelBadKind .W short) x ((Taken x short).forward short.bytes),
   raises (.timeParcelBadKind .W short) x 0x39 (4 + 256 * 9),
   ends (.hopCountExpire .W false true) y fun z => z.acd.farA == 0xFF && z.get F.hopsA == 7 && z.get F.hopsB == 8,
   ends (.hopCountExpire .W true false) y fun z => z.acd.ownB == 0xFF && z.get F.hopsB == 9]

theorem witness_hops : hops.all id = true := by decide +kernel

/-- SYNC, sent and received. -/
def syncs : List Bool :=
  let m := (own.flag F.isMaster true).put F.join 4
  let m := { m with acd := { m.acd with time := 3 * nsUnit, syncSeq := 4, linkSeq := 255, echoSeq := 6 } }
  let n := { own with acd := { own.acd with time := 1000 * nsUnit } }
  let dep := (n.flag F.rateOk true)
  let dep := { dep with acd := { dep.acd with departs := [(17, 900 * nsUnit)] } }
  let sync (flags dst : Byte) (t : Nat) (dwell : Nat) : RxParcel :=
    time 1 0xFE ([0, 0, 9, 1, flags, 33, 17] ++ le 2 300 ++ [dst, 0] ++ le 8 t ++ le 6 0 ++ le 4 dwell)
  let join := (n.put F.join 4).put F.master 9
  let join (es : List Int) : Die := { join with cclk := 5, acd := { join.acd with exchanges := es } }
  let e0 : List Int := List.replicate 16 0
  [ends (.syncSend .W 15) m fun z => z.acd.linkSeq == 0 && z.acd.syncSeq == 5 && z.acd.departs == [(255, 3 * nsUnit + 15 * subUnit)] &&
     z.out.any fun o => match o with
       | .parcel q => natAt q 15 1 == 1 && natAt q 18 1 == 5 && natAt q 21 2 == 255 + 256 * 6 && natAt q 27 8 == 5 &&
           pDst q == 0xFE && (natAt q 20 1) % 16 == 9
       | _ => false,
   ends (.syncSend .W 0) (m.flag F.cutOff true) fun z => z.acd.syncSeq == 4 && z.acd.linkSeq == 0,
   ends (.syncSend .W 0) n fun z => z.acd.linkSeq == 1 && z.acd.syncSeq == 0 && z.out.any fun o => match o with
     | .parcel q => !(natAt q 20 1).testBit 3
     | _ => false,
   ends (.syncReceive .W (sync 0x00 0 0 0) 0) n fun z => z.acd.echoSeq == 33 && z.acd.echoAt == 1000 * nsUnit && z.acd.exchanges.isEmpty,
   ends (.syncReceive .W (sync 0x10 0 0 0) 0) (join e0) fun z => z.acd.nbrLeaving && z.acd.exchanges.isEmpty,
   ends (.syncReceive .W (sync 0x04 0 0 1536) 0) dep fun z => z.acd.exchanges == [32],
   ends (.syncReceive .W (sync 0x04 0 0 1536) 0) { dep with acd := { dep.acd with exchanges := [0] } } fun z => z.acd.exchanges == [32, 0],
   ends (.syncReceive .W (sync 0x04 0 0 1534) 0) { dep with acd := { dep.acd with exchanges := [0] } } fun z =>
     z.acd.exchanges.isEmpty && z.get F.evtCode == 0x4C,
   ends (.syncReceive .W (sync 0x09 2 11000 0) 0) (join e0) fun z => z.acd.syncSeq == 300 && z.acd.ownDist == 3 && z.acd.ownAt == some 5 &&
     z.get F.accOffset == ofSigned 32 (-160000) && z.acd.time == 1000 * nsUnit && z.get F.join == 4 &&
     z.acd.rates == [(11000 * nsUnit, 5)],
   ends (.syncReceive .W (sync 0x09 2 11001 0) 0) (join e0) fun z => z.acd.time == 11001 * nsUnit && z.get F.join == 3]

theorem witness_syncs : syncs.all id = true := by decide +kernel

/-- The master's role. -/
def masters : List Bool :=
  let c := own.put F.role 1
  let s := (own.put F.role 2)
  let s := { s with acd := { s.acd with based := true, time := 77, syncSeq := 9 } }
  let rules (z : Die) : Bool := z.master && z.get F.join == 4 && z.get F.master == 5 && z.on F.rateOk && z.get F.mdist == 0
  [c.claims, ends (.masterClaim .W) c fun z => rules z && z.acd.time == 0 && z.acd.based,
   after (.masterClaim .W) { st c with mod := { used with rtc := 3 } } fun t => t.w.acd.time == 3000000000 * nsUnit,
   ends (.masterTakeover .W) s fun z => rules z && z.acd.time == 77 && z.acd.syncSeq == 12,
   ends (.accordSyncLost .W) ((own.put F.join 3).flag F.rateOk true) fun z => z.get F.join == 1 && !z.on F.rateOk,
   raises (.accordSyncLost .W) (own.put F.join 3) 0x44 0,
   does (.accordNoMaster .W) own { own with acd := { own.acd with noMaster := true } }, raises (.accordNoMaster .W) own 0x43 0]

theorem witness_masters : masters.all id = true := by decide +kernel

/-- Frames and deadlines. -/
def deadlines : List Bool :=
  let m := own.flag F.isMaster true
  let m := { m with acd := { m.acd with time := 1000000 * nsUnit, stamped := some ⟨6, 40, 30⟩ } }
  let done := time 3 0xFF ([0, 0, 0] ++ le 6 7)
  let t := 1000000 + 500000
  let dl (src : Byte) (f p : Nat) : RxParcel := time 4 0xFF ([src, 0, 0] ++ le 6 f ++ le 8 p ++ List.replicate 6 0 ++ le 8 3)
  let x := own.put F.master 9
  let x := { x with acd := { x.acd with time := 5000 * nsUnit } }
  let rep := { own.put F.stiState 2 with acd := { own.acd with repeatDl := [[1, 2], [3]] } }
  [m.stamps && m.unstamped 7,
   ends (.frameDoneReceive .W done) (m.put F.latencyUs 500) fun z => z.acd.stamped == some ⟨7, t, 40⟩ &&
     z.acd.deadlines.contains ⟨7, t, 40⟩ && z.acd.repeatDl.length == 1 && (match z.pcl.timeQ with
       | [q] => natAt q.bytes 19 6 == 7 && natAt q.bytes 25 8 == t && pDst q.bytes == 0xFF
       | _ => false),
   ends (.frameDoneReceive .W done) own fun z => z.acd.stamped == none && z.pcl.timeQ.isEmpty,
   does (.deadlineReceive .W (dl 8 7 9000)) x ((Taken x (dl 8 7 9000)).forward (dl 8 7 9000).bytes),
   ends (.deadlineReceive .W (dl 9 7 9000)) x fun z => z.acd.deadlines == [⟨7, 9000, 3⟩],
   ends (.deadlineReceive .W (dl 9 7 9000)) { x with acd := { x.acd with deadlines := [⟨7, 8000, 3⟩] } } fun z =>
     z.acd.deadlines == [⟨7, 8000, 3⟩],
   raises (.deadlineReceive .W (dl 9 7 2000)) x 0x46 3,
   ends (.deadlineRepeat .W) rep fun z => z.acd.repeatDl == [[3]] && z.pcl.timeQ == [⟨[1, 2], false⟩] &&
     z.out.contains (.stiParcel (HeadOf rep 3 [1, 2]) ⟨.originated false, [1, 2]⟩),
   does (.deadlineRepeat .W) own own, m.acd.deadlines.any (·.frame == 7) == false,
   does (.accAcdKeyWrite .W 3 0xFFFFFFFF) (own.flag F.bootDone true) ((own.flag F.bootDone true).put (F.accKey 3) 0xFFFFFFFF),
   does (.accAcdKeyWrite .W 0 5) ((own.flag F.bootDone true).flag F.sealed true) ((own.flag F.bootDone true).flag F.sealed true)]

theorem witness_deadlines : deadlines.all id = true := by decide +kernel

/-- The stitch's states. -/
def stitchStates : List Bool :=
  let x := act
  let s (n : Nat) : Die := act.put F.stiState n
  let cut := (x.flag F.cutOff true)
  let cut := { cut with sti := { cut.sti with holdRuns := true } }
  let withPeer (p : Power) (y : Die) (b : Bool := false) : State :=
    { st y with e := { (st y).e with power := p, sti := { (st y).e.sti with barred := b } } }
  [does (.stitchTrainStart .W) x (x.put F.stiState 1),
   does (.peerStateChange .W) x { x.put F.stiState 1 with sti := { x.sti with peerBooted := true } },
   does (.stitchTrainStart .W) boot boot, does (.stitchTrainStart .W) { x with sti := { x.sti with barred := true } }
     { x with sti := { x.sti with barred := true } },
   after (.stitchTrainStart .W) (withPeer .active x true) fun t => t.w.get F.stiState == 0,
   after (.peerStateChange .W) (withPeer .booting { s 1 with sti := { x.sti with peerBooted := true } }) fun t =>
     t.w.get F.stiState == 0 && !t.w.sti.peerBooted,
   does (.stitchTrainFail .W) (s 1) (s 0),
   ends (.stitchDown .W) (s 2) fun z => z.get F.stiState == 0 && z.get F.stiDownCount == 1 && z.on F.peerUnknown,
   ends (.stitchDown .W) { (s 2) with sti := { x.sti with crossing := [0, 5, 9] }, cclk := 5 } fun z => z.get F.stiFwdLost == 1,
   ends (.stitchHoldExpired .W) cut fun z => z.sti.holdExpired && z.on F.silStitch,
   ends (.stitchHoldExpired .W) { cut with power := .drydown } fun z => z.power == .drydown && !z.on F.silStitch,
   raises (.stitchHoldExpired .W) { cut with power := .drydown } 0xE3 0]

theorem witness_stitchStates : stitchStates.all id = true := by decide +kernel

/-- A sound STATUS message takes a die in TRAIN with `n` good ones on, to UP at the sixteenth. -/
def training' (n : Nat) : Die := { act.put F.stiState 1 with sti := { act.sti with good := n } }
def status : StiStatus := ⟨4, 0, 0, false, false, true⟩
def statusHead : StiHead := stiHead (cvuSel act 1) 4 status.bytes 9

/-- A step at die W of `st x`, where its meaning computes `y`. -/
theorem ends_of {c : Instr} {x : Die} {f : Ctx → Die → Die} {p : Die → Bool} (hc : exec c (st x) = onDie (st x) .W f)
    (hp : p (((st x).at .W).finish (f ((st x).ctx .W) ((st x).at .W))) = true) : ends c x p = true := by
  rw [ends, after, hc, onDie_up _ _ _ (by rfl)]
  exact hp

theorem heard_status (n : Nat) (h : n = 14 ∨ n = 15) : Heard (training' n) 4 status.bytes statusHead := by
  refine ⟨?_, rfl, ?_⟩
  · rw [show cvuSel (training' n) 1 = cvuSel act 1 by rcases h with rfl | rfl <;> decide +kernel]
    exact stiHead_passes ..
  · rcases h with rfl | rfl <;> decide +kernel

/-- The meaning of STITCH_STATUS_RECEIVE, in the form that `ends_of` asks for. -/
theorem exec_status (h : StiHead) (m : StiStatus) (b : Bool) (l : Byte) (s : State) : exec (.stitchStatusReceive .W h m b l) s = onDie s .W fun c x =>
    match x.stitchTake 4 m.bytes h with
    | (false, x) => x
    | (true, x) =>
      let x := if x.mayTrain c then x.stitchTrain else x
      let x : Die := { x with sti := { x.sti with peer := some m, good := min 16 (x.sti.good + 1) } }
      let x := if x.get F.stiState = 1 && x.sti.good = 16 && b && !x.sti.barred && !c.barred then x.stitchRises l.toNat else x
      if x.stitchUp then
        let x := x.flag F.peerUnknown false
        if m.woke then x.wake 3 else x
      else x := rfl

theorem test_statusCounts : ends (.stitchStatusReceive .W statusHead status true 3) (training' 14) (fun z =>
    z.sti.good == 15 && z.get F.stiState == 1) = true := by
  refine ends_of (exec_status ..) ?_
  dsimp only
  rw [show (st (training' 14)).at .W = training' 14 from rfl, stitchTake_sound (heard_status 14 (.inl rfl)).1 rfl (heard_status 14 (.inl rfl)).2.2]
  decide +kernel

theorem test_statusRises : ends (.stitchStatusReceive .W statusHead status true 3) (training' 15) (fun z =>
    z.get F.stiState == 2 && z.get F.stiLatency == 3) = true := by
  refine ends_of (exec_status ..) ?_
  dsimp only
  rw [show (st (training' 15)).at .W = training' 15 from rfl, stitchTake_sound (heard_status 15 (.inr rfl)).1 rfl (heard_status 15 (.inr rfl)).2.2]
  decide +kernel

/-- A die whose stitch is UP, and the head of a message of class `cls` for it. -/
def stitched : Die :=
  let up := act.put F.stiState 2
  { up with acd := { up.acd with ownA := 1, ownB := 2 } }
def head' (cls : Nat) (pay : List Byte) : StiHead := stiHead (cvuSel stitched 1) cls pay 9

theorem heard_stitched (cls : Nat) (pay : List Byte) : Heard stitched cls pay (head' cls pay) :=
  ⟨stiHead_passes .., rfl, rfl⟩

/-- A message of a class other than STATUS that die W hears has the effect `use`. -/
theorem ends_heard {c : Instr} {cls : Nat} {pay : List Byte} {use : Die → Die} {p : Die → Bool}
    (hc : exec c (st stitched) = onDie (st stitched) .W fun _ x => x.stitchUse cls pay (head' cls pay) use)
    (hp : p (((st stitched).at .W).finish (use (stitched.heardSti cls 9))) = true) : ends c stitched p = true := by
  refine ends_of hc ?_
  have h := heard_stitched cls pay
  rw [show (st stitched).at .W = stitched from rfl, stitchUse_sound h.1 h.2.1 h.2.2, if_pos (by decide +kernel)]
  exact hp

theorem test_lockStarts : ends (.stitchLockReceive .W (head' 1 (StiLock.bytes ⟨7, some 50, true⟩)) ⟨7, some 50, true⟩) stitched
    (fun z => z.sti.start == some ⟨7, some 50, true⟩ && z.get (F.cvuPass 1) == 1) = true := ends_heard rfl (by decide +kernel)

theorem test_lockSettles : ends (.stitchLockReceive .W (head' 1 (StiLock.bytes ⟨7, none, true⟩)) ⟨7, none, true⟩) stitched
    (fun z => z.sti.peerSettled == some 7 && z.sti.start == none) = true := ends_heard rfl (by decide +kernel)

theorem test_timeHops : ends (.stitchTimeReceive .W (head' 2 (StiTime.bytes ⟨5, 1, .E, none⟩)) ⟨⟨5, 1, .E, none⟩, 0⟩) stitched
    (fun z => z.acd.farA == 5 && z.get F.hopsA == 1 && z.get F.hopsB == 1) = true := ends_heard rfl (by decide +kernel)

theorem test_blotterReports : ends (.stitchBlotterReceive .W (head' 5 (StiBlotter.bytes ⟨0xFFFF, 3, 7⟩)) ⟨0xFFFF, 3, 7⟩) stitched
    (fun z => z.get F.peerMismatch == 3 && z.get F.peerFrame == 0xFFFF && !z.on F.peerUnknown) = true :=
  ends_heard rfl (by decide +kernel)

/-- A message whose check value is another one fails, and so takes the stitch DOWN as the fourth in a row. -/
def wrong (h : StiHead) : StiHead := { h with check := h.check + 1 }

theorem succ_ne (b : BitVec 32) : b + 1 ≠ b := by simp

theorem wrong_fails (cls : Nat) (pay : List Byte) : (wrong (head' cls pay)).passes (cvuSel stitched 1) pay = false :=
  passes_unique (stiHead_passes ..) rfl rfl (succ_ne _)

/-- The stitch's messages, whose bytes the spec gives. -/
def stitchMessages : List Bool :=
  let up := act.put F.stiState 2
  let x := stitched
  let h (y : Die) (pay : List Byte) : StiHead := stiHead (cvuSel y 1) 3 pay 9
  let bad (y : Die) (pay : List Byte) : StiHead := wrong (h y pay)
  let failed (y : Die) (n : Nat) : Die := { y with sti := { y.sti with failRun := n } }
  let q := List.replicate 44 (0 : Byte)
  let far := (pk (mkHeader 3 false false 4 9 0 0 0 0 0 8) (List.replicate 8 0)).bytes
  let fwd (c : StiHead) : Instr := .stitchParcelReceive .W c ⟨.received, q⟩
  [ends (.stitchStatusSend .W) up fun z => z.out.any (fun o => match o with | .stiStatus _ m => m.power.toNat == up.power.code | _ => false) &&
     look z.sti.txAlive 4 == some 1,
   ends (.stitchTimeSend .W) x fun z => z.out.any (fun o => match o with | .stiTime _ m => m == ⟨1, 2, .W, none⟩ | _ => false) &&
     look z.sti.txAlive 2 == some 1,
   does (fwd (bad up q)) up (failed (((up.bump F.stiCheckFail).bump (F.cvuFail 1)).bump F.stiFwdLost) 1),
   does (fwd { h up q with header := (h up q).header + 1, check := stiCheck (cvuSel up 1) ((h up q).header + 1) q 9 }) up
     ((up.bump (F.cvuPass 1)).bump F.stiCheckFail),
   does (fwd (h act q)) act (HeardBy act 3 (h act q)),
   ends (fwd (bad up q)) (failed up 3) fun z => z.get F.stiState == 0 && z.get F.stiDownCount == 1,
   does (.stitchParcelReceive .W (h up q) ⟨.originated true, q⟩) up
     { HeardBy up 3 (h up q) with pcl := { (HeardBy up 3 (h up q)).pcl with locQ := [⟨q, true⟩] } },
   ends (.stitchParcelReceive .W (h up far) ⟨.received, far⟩) up fun z => z.pcl.fwdQ == [far] && z.pcl.wallQ.isEmpty]

theorem witness_stitchMessages : stitchMessages.all id = true := by decide +kernel

/-- An entry of the command ring: opcode, then bytes at places. -/
def ent (op : Nat) (parts : List (Nat × List Byte)) : List Byte :=
  parts.foldl (fun b p => splice b p.1 p.2) (le 1 op ++ [0, 0, 0, 1, 2, 3, 4] ++ List.replicate 56 0)

/-- A die whose BAR0 is open and whose rings run. -/
def ring : Die :=
  let x := ((act.flag F.bootDone true).flag F.hifEnable true).flag F.hifLinkUp true
  { x.flag F.hifRunning true with hif := { Hif.reset with logging := false, layersOff := false } }

/-- That die with the entry `b` at the head of its ring. -/
def headed (x : Die) (b : List Byte) : Die := { x with hif := { x.hif with fetched := [⟨7, b, false⟩] } }

/-- The completion of the entry `b` at a ring that starts. -/
def compl (b : List Byte) (status detail : Nat) : Out := ring.completionOut ⟨b.getD 0 0, false, [1, 2, 3, 4], 7⟩ status detail

/-- `Completes`: the head executes, the die is then as it was without the entry. -/
def completes (c : Instr) (x : Die) (b : List Byte) (status detail : Nat) (y : Die) : Bool :=
  does c (headed x b) (headed y b) && emits c (headed x b) (compl b status detail)

/-- The host link and its interface. -/
def hostLink : List Bool :=
  let b := act.flag F.bootDone true
  let lost := { b with hif := { b.hif with linkLost := true } }
  let off := 0x2008
  let j : Job := ⟨⟨0x0B, false, [], 0⟩, [], true⟩
  let busy := { ring with hif := { ring.hif with store := some j, wait := some ⟨⟨3, false, [], 0⟩, 3, 0, 0, 0⟩ } }
  let busy := (busy.put F.cmpSeq 77).put (F.chState 3) 1
  let vec (m : Bool) : Die := { ring with hif := { ring.hif with
    link := { linkReset with msixEnable := true }, holdoff := [(9, m)], msix := [(36, 5), (37, 1), (38, 6), (39, 0)] } }
  [ends (.hifEnable .W 1) b fun z => z.on F.hifEnable && z.on F.hifRunning && !z.hif.logging && z.hif.evtTail == 0 && !z.hif.layersOff,
   ends (.hifEnable .W 1) lost fun z => z.hif.evtTail == 1 && !z.hif.linkLost &&
     z.out.contains (.hostWrite 0 (eventBytes .W ⟨0x55, 0, 0⟩ 0 1) false false),
   ends (.hifDisable .W 0) (headed ring (List.replicate 64 0)) fun z => !z.on F.hifEnable && z.hif.fetched.length == 1,
   ends (.hifDisable .W 0) { headed ring (List.replicate 64 0) with hif := { (headed ring (List.replicate 64 0)).hif with fence := some j } }
     fun z => z.hif.fetched.isEmpty,
   isHifCfg off && does (.hifCfgWrite .W 0x2008 0xFFFFFFFF) b (b.store 0x2008 0xFFFFFFFF),
   raises (.hifCfgWrite .W 0x2008 0xFFFFFFFF) ring 0x57 (0x2008 + 65536 * 0xFFFF),
   ends (.pcieLinkTrain .W ⟨2, true, 2, 5, true, true, false⟩) act fun z => z.hif.link.x2 && z.on F.hifLinkUp,
   ends (.d3hotEntry .W) ring fun z => z.hif.d3hot, ends (.d0Return .W) { ring with hif := { ring.hif with d3hot := true } } fun z => !z.hif.d3hot,
   emits (.barAccessSize .W false 0x10 0) ring .barUnsupported, raises (.barAccessSize .W true 0x10 0xABCDE) ring 0x5A (0x10 + 65536 * 0xBCDE),
   ends (.hifStickyClear .W 0x10002) (ring.put F.stickyRanges 3 |>.put F.stickyCount 9) fun z =>
     z.get F.stickyRanges == 1 && z.get F.stickyCount == 0,
   ends (.hostLinkDown .W .surprise) busy fun z => !z.on F.hifEnable && z.hif.logging && z.hif.wait.isNone && z.chState 3 == 0 &&
     z.get F.cmpSeq == 77 && z.hif.store == some { j with live := false } && z.out.isEmpty,
   ends (.hostLinkDown .W .perstLow) b fun z => z.hif.linkLost && z.hif.logging,
   ends (.irqHoldoffExpiry .W 9) (vec false) fun z => (look z.hif.holdoff 9).isNone,
   emits (.irqHoldoffExpiry .W 9) (vec true) (.msix 9 (5 + 2 ^ 32) 6)]

theorem witness_hostLink : hostLink.all id = true := by decide +kernel

/-- The rings move. -/
def rings : List Bool :=
  let x := (ring.put F.dbBaseLo 1).put F.cmdBaseHi 2
  let poll := { x with hif := { x.hif with polling := true } }
  let bell (n : Nat) : List Byte := le 2 n ++ List.replicate 62 0
  let fetch := { x with hif := { x.hif with fetching := 1 } }
  let nop := ent 1 []
  let wrong := (ent 1 [(1, [2])])
  [emits (.doorbellPoll .W) x (.hostRead 64 64), ends (.doorbellPoll .W) x fun z => z.hif.polling && z.get F.hifPolls == 1,
   ends (.doorbellReadDone .W none) { poll with hif := { poll.hif with fails := 1 } } fun z => z.hif.fails == 2 && !z.on F.fetchStall,
   ends (.doorbellReadDone .W none) { poll with hif := { poll.hif with fails := 2 } } fun z => z.on F.fetchStall && !z.on F.hifRunning,
   raises (.doorbellReadDone .W none) poll 0x53 64,
   ends (.doorbellReadDone .W (some (bell 16))) poll fun z => z.hif.tail == 16 && z.hif.fetching != 0 &&
     z.out.contains (.hostRead (2 ^ 33) (64 * z.hif.fetching)),
   ends (.doorbellReadDone .W (some (bell 0))) poll fun z => z.hif.fetching == 0,
   ends (.doorbellReadDone .W (some (bell 17))) poll fun z => z.hif.tail == 16 && z.get F.hifOverrun == 1,
   ends (.commandFetchDone .W (some [nop])) (fetch.put F.hifCmdHead 0xFFFF) fun z =>
     z.hif.fetched == [⟨0xFFFF, nop, false⟩] && z.get F.hifCmdHead == 0,
   ends (.commandFetchDone .W (some [wrong])) fetch fun z => z.hif.fetched.isEmpty && z.get (F.cvuFail 5) == 1 &&
     z.get F.evtCode == 0x56 && z.out.contains (x.completionOut ⟨1, false, [1, 2, 3, 4], 0⟩ 9 0),
   ends (.commandFetchDone .W none) { fetch with hif := { fetch.hif with ringFails := 2 } } fun z =>
     z.hif.ringFails == 3 && z.on F.fetchStall && z.hif.fetching == 0]

theorem witness_rings : rings.all id = true := by decide +kernel

/-- Heads that are refused, and the commands of the ring itself. -/
def heads : List Bool :=
  let x := ring.flag F.cstReady true
  let dry := { x with power := .drydown }
  let nop := ent 1 []
  let fence := ent 2 [(8, [4])]
  let wait (k : Byte) (t : Nat) : List Byte := ent 3 [(8, [k]), (24, le 8 t)]
  let held (y : Die) (b : List Byte) : Die := { headed y b with hif := { (headed y b).hif with fetched := [] } }
  let j : Job := ⟨⟨2, false, [1, 2, 3, 4], 7⟩, bytesAt fence 8 52, true⟩
  let fenced := { x with hif := { x.hif with fence := some j } }
  let late := { x with acd := { x.acd with time := 100 * nsUnit } }
  let w : Wait := ⟨⟨3, false, [1, 2, 3, 4], 7⟩, 6, 0, 100, 5⟩
  let waits := { late with hif := { late.hif with wait := some w } }
  let snap := ent 0x11 [(8, [1]), (16, le 4 4096)]
  [completes (.tableLoad .W) dry (ent 5 []) 0x0B 0 dry, completes (.nop .W) dry nop 0 0 dry,
   completes (.nop .W) x (ent 1 [(8, [1])]) 4 0 x, completes (.sillageEnter .W) x (ent 8 [(59, [1])]) 4 0 x,
   completes (.badOpcode .W) x (ent 0 []) 3 0 x, completes (.badOpcode .W) dry (ent 0x17 []) 3 0 dry,
   completes (.nop .W) x nop 0 0 x,
   does (.fence .W) (headed x fence) { headed x fence with hif := { (headed x fence).hif with fence := some j } },
   emits (.fence .W) (headed (x.put F.dbBaseLo 1) fence) (.hostRead 64 0),
   does (.fenceDone .W) fenced x, emits (.fenceDone .W) fenced (ring.completionOut j.cmd 0 0),
   does (.fenceDone .W) { fenced with hif := { fenced.hif with store := some j } } { fenced with hif := { fenced.hif with store := some j } },
   completes (.waitEvent .W) late (wait 6 100) 0 0 late,
   does (.waitEvent .W) (headed late (wait 6 101))
     (let y := held late []
     { y with hif := { y.hif with wait := some { w with time := 101, timeout := 0 } } }),
   does (.waitEventTimeReached .W) waits late, emits (.waitEventTimeReached .W) waits (ring.completionOut w.cmd 0 0),
   does (.waitEventTimeout .W) waits late, emits (.waitEventTimeout .W) waits (ring.completionOut w.cmd 6 0),
   x.ringFree && !x.stateRefuses true false false && entryOk snap [(8, 1), (16, 4), (24, 8)] && hostLen snap == 4096 && addrOk snap]

theorem witness_heads : heads.all id = true := by decide +kernel

/-- Orders of the host. -/
def orders : List Bool :=
  let x := ring
  let sf (f : Byte) (v : Nat) : List Byte := ent 4 [(9, [f]), (12, le 4 v)]
  let reg (off v mask : Nat) : List Byte := ent 4 [(8, [1]), (12, le 4 v ++ le 4 off ++ le 4 mask)]
  let rtc := ent 4 [(8, [2]), (24, le 6 0xFFFFFFFFFFFF)]
  let arm (k fl : Byte) : List Byte := ent 0x0A [(8, [k, 2, fl]), (16, [16, 0, 8, 0])]
  let r := (x.put F.halfW 16).put F.halfH 8
  let w : WallCmd := ⟨9, false, 44, false, [1, 0, 0, 0, 0, 0, 0, 0, 1, 0, 0, 0, 200, 0, 0, 0]⟩
  let both := headed { x with pcl := { x.pcl with wallQ := [w] } } (sf 1 5)
  let won := { FieldSet both 1 200 with acd := { both.acd with wallSeqs := [(1, 44)] } }
  [does (.wallSetField ⟨.W, true⟩) both (Executed won w []), emits (.wallSetField ⟨.W, true⟩) both (both.completionOut both.headCmd 1 0),
   raises (.wallSetField ⟨.W, true⟩) both 0x4B (1 + 512 + 65536 * 44),
   completes (.setField .W) (x.put F.own1 2) (sf 1 5) 2 0 (x.put F.own1 2), completes (.setField .W) x (sf 1 4095) 0 0 (FieldSet x 1 4095),
   completes (.setField .W) x (sf 1 4096) 4 0 x, completes (.setField .W) x (sf 3 1) 0 0 (FieldSet x 3 1),
   completes (.setField .W) { x with acd := { x.acd with wallBlank := true } } (sf 4 0) 1 0
     { x with acd := { x.acd with wallBlank := true, hostBlank := false } },
   completes (.setFieldRegister .W) ((x.flag F.sealed true)) (reg 0x1868 1 1) 8 0 (x.flag F.sealed true),
   completes (.setFieldRegister .W) x (reg 0x0408 0x033333 0xFFFFFFFF) 4 0 x,
   completes (.setFieldRegister .W) x (reg 0x1008 0x01020304 0xFFFFFFFF) 0 0 (x.store 0x1008 0x01020304),
   after (.rtcSet .W) (st (headed x rtc)) fun t => decide (t.mod = { used with rtc := 0xFFFFFFFFFFFF }) && t.w.out.contains (compl rtc 0 0),
   ends (.sillageEnter .W) (headed (x.flag F.scanOwn true) (ent 8 [(8, [1])])) fun z =>
     z.acd.hostSil && z.on F.silHost && z.on F.silHostDeep && z.power == .active,
   ends (.sillageExit .W) (headed { (x.flag F.silHost true).flag F.refclkOk true |>.flag F.silRefclk true with power := .relay } (ent 9 [])) fun z =>
     !z.on F.silHost && !z.on F.silRefclk,
   r.rectFits (rectOf (arm 15 1)) && completes (.blotterArm .W) r (arm 15 1) 0 0 (r.setRect 15 { r.rect 15 with next := some (some (rectOf (arm 15 1))) }),
   completes (.blotterArm .W) r (arm 16 1) 4 0 r,
   completes (.blotterDisarm .W) r (arm 0 2) 0 0 (r.setRect 0 { r.rect 0 with next := some none })]

theorem witness_orders : orders.all id = true := by decide +kernel

/-- A die with its rings, store and DRAM open to commands: master 7 and the DMA engine may reach all of DRAM. -/
def eng : Die :=
  let x := ring.flag F.cstReady true
  [6, 7, 5].foldl (fun (x : Die) m => (x.put (F.rgnFlags (8 * m)) 0x1F).put (F.rgnSize (8 * m)) 0x70000) x

/-- The job that the entry `b` gives its engine. -/
def job (b : List Byte) : Job := jobOf ⟨b.getD 0 0, false, [1, 2, 3, 4], 7⟩ b

/-- The head starts its engine: the die is then `y` of the die. -/
def starts (c : Instr) (x : Die) (b : List Byte) (y : Die → Job → Die) : Bool := does c (headed x b) (y (headed x b) (job b))

/-- The engines take their commands. -/
def engineHeads : List Bool :=
  let x := eng
  let table (op : Nat) (id bank : Byte) (off len : Nat) : List Byte := ent op [(8, [id, bank]), (12, le 4 off ++ le 4 len)]
  let store (op a n : Nat) : List Byte := ent op [(12, le 4 a ++ le 4 n), (24, le 8 0x1000)]
  let erase (a n : Nat) : List Byte := ent 0x0D [(12, le 4 a ++ le 2 n)]
  let tb (x : Die) (j : Job) : Die := { x with hif := { x.hif with table := some j } }
  let sto (x : Die) (j : Job) : Die := { x with hif := { x.hif with store := some j } }
  let we (x : Die) (j : Job) : Die := { x with hif := { x.hif with wear := some j } }
  let pass := { x with wear := { x.wear with pass := true } }
  let erasing := { x with cst := { x.cst with op := .erase 9 0 } }
  let scan := ((x.flag F.scanOwn true).put F.ldbLanes 0x80000001).put F.ldbNM1 1
  let wl := 32 + 18 * 16 * 8
  let half := (x.put F.halfW 16).put F.halfH 8
  let found (z : Die) : Bool := z.ldb.scan == [(0, 1), (31, 1)] && z.echo 0 == some ⟨0, 0, false⟩ && z.echo 3 == some ⟨31, 0, false⟩
  [completes (.tableLoad .W) (x.flag F.ldbEn true) (table 5 7 0 0 4) 5 0 (x.flag F.ldbEn true),
   starts (.tableLoad .W) x (table 5 7 0 393212 4) tb, completes (.tableLoad .W) x (table 5 7 0 393216 4) 4 0 x,
   completes (.tableLoad .W) { x with power := .relay } (table 5 1 0 0 2) 11 0 { x with power := .relay }, starts (.tableLoad .W) x (table 5 1 1 0x7FFE 2) tb,
   starts (.tableLoad .W) pass (table 5 2 1 0 2) fun x j => { (tb x j) with wear := { x.wear with pass := false } }.flag F.building false,
   emits (.tableLoad .W) (headed x (ent 5 [(8, [3, 0]), (16, le 4 240), (24, le 8 0x2000)])) (.hostRead 0x2000 240),
   starts (.tableRead .W) x (table 6 1 0 0 2) tb,
   starts (.storeWrite .W) x (store 0x0B (8 * flashBlock) 1) sto, completes (.storeWrite .W) x (store 0x0B (8 * flashBlock - 1) 1) 4 0 x,
   completes (.storeWrite .W) x (store 0x0B (2312 * flashBlock) 1) 4 0 x, emits (.storeWrite .W) (headed x (store 0x0B (8 * flashBlock) 5)) (.hostRead 0x1000 5),
   starts (.storeRead .W) x (store 0x0C (4096 * flashBlock - 1) 1) sto,
   starts (.storeRead .W) erasing (store 0x0C 0 1) fun x j =>
     (({ (sto x j) with cst := { x.cst with suspended := true } }.flag F.cstSuspended true).bump F.cstSuspends),
   ends (.storeErase .W) (headed x (erase (4095 * flashBlock) 1)) fun z => z.cst.op == .erase 4095 0 && z.on F.cstBusy && z.hif.store.isSome,
   starts (.storeErase .W) erasing (erase (8 * flashBlock) 2) fun x j => { (sto x j) with cst := { x.cst with queued := some (.erase 8 1) } },
   starts (.wearExport .W) half (ent 0x0E [(16, le 4 wl)]) we, completes (.wearExport .W) half (ent 0x0E [(16, le 4 (wl - 1))]) 4 0 half,
   starts (.wearImport .W) x (ent 0x0F [(16, le 4 wl)]) we, emits (.wearImport .W) (headed x (ent 0x0F [(16, le 4 wl)])) (.hostRead 2048 (wl - 2048)),
   starts (.panelIdRead .W) x (ent 0x15 [(12, [0, 1])]) fun x j => { x with hif := { x.hif with panel := some j } }.flag F.pidBusy true,
   completes (.defectScan .W) x (ent 0x16 []) 5 0 x, ends (.defectScan .W) (headed scan (ent 0x16 [])) found,
   ends (.defectScanInsert .W) (headed scan (ent 0x16 [(8, [1])])) found]

theorem witness_engineHeads : engineHeads.all id = true := by decide +kernel

/-- The commands for lanes, trim and the wall chain. -/
def linkHeads : List Bool :=
  let x := { eng with qphy := (port 6).qphy }
  let x := (lanesAll.foldl (fun (x : Die) k => x.laneTo k 6) (x.flag F.qEnable true)).put F.traffic 15
  let trim (m : Byte) (code : Nat) : List Byte := ent 7 [(8, [m]), (12, le 2 code)]
  let own' := x.flag F.scanOwn true
  let auto := { x with trim := { x.trim with todo := [2], auto := true } }
  let svc := ent 0x12 [(8, [3, 1, 1])]
  let eye (sv : Byte) (n : Nat) : List Byte := ent 0x13 [(8, [0, 63, sv, 34]), (16, le 4 n)]
  let send := ent 0x10 [(8, [0xFF, 2, 1]), (12, le 2 8)]
  [completes (.trimRun .W) x (trim 1 0) 5 0 x, completes (.trimRun .W) x (trim 0 0) 4 0 x, completes (.trimRun .W) x (trim 4 1) 4 0 x,
   ends (.trimRun .W) (headed own' (trim 15 4095)) fun z => z.trim.todo == [1, 0, 2, 3] && z.trim.code == 4095 && z.get (trimKind 1) == 3,
   starts (.trimRun .W) auto (trim 8 0) fun x j => { x with hif := { x.hif with trim := some j } },
   ends (.laneService .W) (headed x svc) fun z => z.laneSt 3 == 7 && z.get F.traffic == 7 && (z.lane 3).serviceReq == some (1, true) &&
     z.laneSt 0 == 6,
   completes (.laneService .W) (x.laneTo 0 5) svc 5 0 (x.laneTo 0 5),
   eyeBytes 63 63 == 16 + 2 * 3 * 2, starts (.eyeScan .W) x (eye 63 28) fun x j => { x with hif := { x.hif with scan := some j } },
   completes (.eyeScan .W) x (eye 63 27) 4 0 x,
   ends (.accordSend .W) (headed x send) fun z => match z.pcl.outstanding with
     | [o] => z.pcl.locQ == [⟨o.bytes, true⟩] && o.dst == 0xFF && o.seq == 0 && o.auth && o.bytes.drop 15 == List.replicate 8 0 &&
         look z.pcl.seqs 0xFF == some 1
     | _ => false]

theorem witness_linkHeads : linkHeads.all id = true := by decide +kernel

/-- What the engines answer. -/
def engineAnswers : List Bool :=
  let x := eng
  let j (op : Byte) (id bank : Byte) (off len host : Nat) : Job :=
    ⟨⟨op, false, [1, 2, 3, 4], 7⟩, [id, bank, 0, 0] ++ le 4 off ++ le 4 len ++ le 4 0 ++ le 8 host ++ List.replicate 28 0, true⟩
  let io (data : List Byte) (fail : Option Nat := none) (bus : Option Nat := none) : EngineIo := ⟨data, fail, bus, [], none⟩
  let tb (j : Job) : Die := { x with hif := { x.hif with table := some j } }
  let sto (j : Job) : Die := { x with hif := { x.hif with store := some j } }
  let we (j : Job) : Die := { x with hif := { x.hif with wear := some j } }
  let pan (j : Job) : Die := { x with hif := { x.hif with panel := some j } }.flag F.pidBusy true
  let answers (c : Instr) (x : Die) (j : Job) (s n : Nat) (y : Die) : Bool := does c x y && emits c x (x.completionOut j.cmd s n)
  let l3 := j 5 3 0 238 2 0x100
  let l1 := j 5 1 1 0x7FFE 2 0x100
  let r3 := j 6 3 0 236 8 0x100
  let r1 := j 6 1 0 0 2 0x100
  let w := j 0x0B 0 0 (8 * flashBlock) 4 0x100
  let r := j 0x0C 0 0 7 2 0x100
  let im := j 0x0F 0 0 0 32 0x100
  let ex := { j 0x0E 0 0 0 (32 + 18) 0x100 with args := List.replicate 8 0 ++ le 4 50 ++ le 4 0 ++ le 8 0x100 }
  let pn : Job := ⟨⟨0x15, false, [1, 2, 3, 4], 7⟩, [0, 0, 0, 0, 4, 0, 9, 0] ++ List.replicate 8 0 ++ le 8 0x100, true⟩
  let key := List.replicate 16 (7 : Byte)
  let half := ((we ex).put F.halfW 1).put F.halfH 1
  let half := { half with wear := { half.wear with key := some key } }
  let ey : Job := ⟨⟨0x13, false, [1, 2, 3, 4], 7⟩, [2, 63, 63, 34] ++ List.replicate 48 0, true⟩
  let sc := { x with hif := { x.hif with scan := some ey, scanTime := 99 } }
  let o : Outstanding := ⟨0xFF, 3, [1], false, false, false, none, none, 0, 1, 0, false, none, false, some ⟨0x10, false, [1, 2, 3, 4], 7⟩⟩
  let ac := { x with pcl := { x.pcl with outstanding := [o] } }
  [does (.engineDone .W .table (io [])) x x, does (.engineDone .W .service (io [])) (tb l3) (tb l3),
   answers (.engineDone .W .table (io [8, 9, 10])) (tb l3) l3 0 0
     { x with wear := { x.wear with curves := List.replicate 238 0 ++ [8, 9] } },
   answers (.engineDone .W .table (io [8, 9])) (tb l1) l1 0 0
     ((x.poke true (0x03000000 + 0x8000 + 0x7FFE) [8, 9]).traffic true 1 1),
   answers (.engineDone .W .table (io [8, 9] (some 1))) (tb l3) l3 10 0
     { x with wear := { x.wear with curves := List.replicate 238 0 ++ [8, 0] } },
   raises (.engineDone .W .table (io [8, 9] (some 1))) (tb l3) 0x53 0x101,
   answers (.engineDone .W .table (io [])) (tb r3) r3 0 8 x || (bytesAt x.wear.curves 236 8).length != 8,
   answers (.engineDone .W .table (io [])) ((tb r1).poke true 0x03000000 [5, 6]) r1 0 2
     ((x.poke true 0x03000000 [5, 6]).traffic true 1 0),
   emits (.engineDone .W .table (io [])) ((tb r1).poke true 0x03000000 [5, 6]) (.hostWrite 0x100 [5, 6] false false),
   does (.engineDone .W .store (io [1, 2, 3, 4, 5])) (sto w)
     ({ sto w with cst := { x.cst with op := .program (8 * flashBlock) [1, 2, 3, 4] false } }.flag F.cstBusy true),
   answers (.engineDone .W .store (io [1])) { sto w with cst := { x.cst with flash := [(8 * flashBlock, 0xFE)] } } w 7 0
     ({ x with cst := { x.cst with flash := [(8 * flashBlock, 0xFE)] } }.flag F.cstBusy false),
   answers (.engineDone .W .store (io [])) (sto r) r 0 2 x, emits (.engineDone .W .store (io [])) (sto r) (.hostWrite 0x100 [255, 255] false false),
   answers (.engineDone .W .wear (io (List.replicate 32 0))) (we im) im 7 1 x,
   answers (.engineDone .W .wear (io [])) (we { im with args := im.args.set 8 31 }) im 7 2 x,
   emits (.engineDone .W .wear (io [])) half (.hostWrite 0x100 (key ++ [0, 0, 1, 0] ++ List.replicate 30 0) false false),
   emits (.engineDone .W .wear (io [])) half (x.completionOut ex.cmd 0 50),
   answers (.engineDone .W .panel (io [1, 2, 3, 4, 5])) (pan pn) pn 0 4 x,
   answers (.engineDone .W .panel (io [1, 2, 3, 4] none (some 3))) (pan pn) pn 7 3 x,
   raises (.engineDone .W .panel (io [1, 2, 3, 4] none (some 3))) (pan pn) 0xA5 12,
   answers (.engineDone .W .accord (io [])) ac ⟨⟨0x10, false, [1, 2, 3, 4], 7⟩, [], true⟩ 0 o.detail { x with pcl := { x.pcl with outstanding := [] } },
   does (.engineDone .W .accord (io [])) { ac with pcl := { ac.pcl with locQ := [⟨[1], false⟩] } }
     { ac with pcl := { ac.pcl with locQ := [⟨[1], false⟩] } },
   answers (.eyeScanDone .W [1, 2, 3, 4, 5, 6, 7] none) sc ey 0 28 { x with hif := { x.hif with scanTime := 99 } },
   emits (.eyeScanDone .W [1, 2, 3, 4, 5, 6, 7] none) sc (.hostWrite 0 ([2, 63, 63, 34, 2, 0, 3, 0] ++ le 8 99 ++
     [1, 0, 2, 0, 3, 0, 4, 0, 5, 0, 6, 0]) false false),
   raises (.eyeScanDone .W [] none) sc 0x2C 2,
   emits (.eyeScanDone .W [1, 2, 3, 4, 5, 6] (some 17)) sc (.hostWrite 0 ([2, 63, 63, 34, 2, 0, 3, 0] ++ le 8 99 ++ [1]) false false),
   answers (.eyeScanDone .W [1, 2, 3, 4, 5, 6] (some 17)) sc ey 10 17 { x with hif := { x.hif with scanTime := 99 } }]

theorem witness_engineAnswers : engineAnswers.all id = true := by decide +kernel

/-- A Chain descriptor: source, destination, length, targets (source in bits 1–0, destination in bits 3–2), flags, NEXT. -/
def desc (src dst len tgt flags next : Nat) : List Byte :=
  le 8 src ++ le 8 dst ++ le 3 len ++ le 1 tgt ++ le 1 flags ++ [0, 0, 0] ++ le 8 next

/-- DMA_ARM with its three actions. -/
def arming : List Bool :=
  let x := eng
  let arm (k act' : Byte) (o a : Nat) : List Byte := ent 0x14 [(8, [k, act']), (12, le 4 o), (24, le 8 a)]
  let s (n : Nat) : Die := x.put (F.chState 15) n
  let armed := (((x.setChan 15 { Channel.reset with options := 0x1EFE, first := 0x40, addr := 0x40 }).put (F.chDesc 15) 0x40).put
    (F.chRingIdx 15) 0).put (F.chState 15) 1
  let ab := { (s 4).setChan 15 { Channel.reset with abort := some ⟨0x14, false, [1, 2, 3, 4], 7⟩ } with out := [] }
  let b := desc 0 0x1000 100 4 0 0
  let abd := (s 4).setChan 15 { Channel.reset with abort := some ⟨0x14, false, [1, 2, 3, 4], 7⟩, desc := some b, settling := true, half := some 50 }
  let abortDone (n : Nat) : Instr := .dmaAbortDone .W 15 ⟨n, ⟨[], false, [], [], []⟩⟩
  let cold (y : Die) : Die := { y with hif := { y.hif with d3hot := true } }
  [completes (.dmaArm .W) x (arm 15 1 0x1EFE 0x40) 0 0 armed, completes (.dmaArm .W) x (arm 16 1 0 0x40) 4 0 x,
   completes (.dmaArm .W) x (arm 15 1 0x2000 0x40) 4 0 x, completes (.dmaArm .W) x (arm 15 1 0 0x41) 4 0 x,
   completes (.dmaArm .W) x (arm 15 1 0x1F00 0x40) 4 0 x, completes (.dmaArm .W) x (arm 15 1 0x11 0x40) 4 0 x,
   completes (.dmaArm .W) (s 4) (arm 15 1 0 0x40) 5 0 (s 4),
   ends (.dmaStop .W) (headed (s 1) (arm 15 2 0 0)) fun z => z.chState 15 == 0,
   completes (.dmaStop .W) (s 2) (arm 15 2 0 0) 0 0 (s 3), completes (.dmaStop .W) (s 4) (arm 15 2 0 0) 0 0 (s 4),
   completes (.dmaAbort .W) x (arm 15 3 0 0) 0 0 x, ends (.dmaAbort .W) (headed (s 1) (arm 15 3 0 0)) fun z => z.chState 15 == 0,
   does (.dmaAbort .W) (headed (s 3) (arm 15 3 0 0)) (headed ab []), does (.dmaAbort .W) (headed (s 4) (arm 15 3 0 0)) (headed ab []),
   does (abortDone 9) (cold abd) (cold abd),
   does (abortDone 9) (s 2) (s 2),
   ends (abortDone 9) ab fun z => z.chState 15 == 0 && z.out.contains (x.completionOut ⟨0x14, false, [1, 2, 3, 4], 7⟩ 0 0),
   ends (abortDone 9) abd fun z => z.chState 15 == 0 && z.get (F.chLastErr 15) == 8 &&
     z.out.contains (x.completionOut ⟨0x14, false, [1, 2, 3, 4], 7⟩ 0 50),
   ends (abortDone 101) abd fun z => z.out.contains (x.completionOut ⟨0x14, false, [1, 2, 3, 4], 7⟩ 0 100),
   raises (abortDone 9) abd 0x60 (15 + 256 * 8)]

theorem witness_arming : arming.all id = true := by decide +kernel

/-- Triggers, timers and descriptors that arrive. -/
def triggers : List Bool :=
  let x := eng
  let c : Channel := { Channel.reset with addr := 0x40, due := 2, options := 0x0800 }
  let s (n : Nat) (c : Channel := c) : Die := (x.setChan 3 c).put (F.chState 3) n
  let one : Channel := { c with due := 1 }
  let got (n : Nat) (c : Channel) : Die := s n { c with fetching := true, asked := true }
  let ring' : Channel := { c with options := 1 }
  let own' := (desc 0 0x1000 100 4 0 0).set 23 0x80
  let good := desc 0 0x1000 100 4 0x30 0
  let i (b : List Byte) : Instr := .dmaDescFetchDone .W 3 (some b)
  let err (c : Channel) (b : List Byte) (e : Nat) : Bool :=
    ends (i b) (got 2 c) (fun z => z.chState 3 == 0 && z.get (F.chLastErr 3) == e) && raises (i b) (got 2 c) 0x60 (3 + 256 * e + 65536 * 2)
  [does (.dmaTrigger .W 3) (s 0) (s 0 one), does (.dmaTrigger .W 3) (s 3) ((s 3 one).flag (F.chPending 3) true),
   does (.dmaTrigger .W 3) (s 2 { c with due := 0 }) (s 2 { c with due := 0 }),
   does (.dmaTrigger .W 3) (s 1) (s 2 { one with fresh := true, fetching := true, asked := true }),
   does (.dmaTrigger .W 3) (s 1 { c with carry := 4, skips := 5 })
     (s 2 { one with fresh := true, fetching := true, asked := true, passing := 4, carry := 5 }),
   emits (.dmaTrigger .W 3) (s 1) (.hostRead 0x40 32),
   does (.dmaTrigger .W 3) (s 2) ((s 2 one).flag (F.chPending 3) true),
   does (.dmaTrigger .W 3) ((s 2).flag (F.chPending 3) true) (((s 2 one).flag (F.chPending 3) true).bump (F.chOverrun 3)),
   does (.dmaTrigger .W 3) ((s 2 { c with options := 0x10 }).flag (F.chPending 3) true)
     ((((s 2 { one with options := 0x10, skips := 1 }).flag (F.chPending 3) true).bump (F.chOverrun 3)).bump (F.chSkip 3)),
   ends (.freeTimerFire .W 0) ((s 1).flag (F.ftEnable 0) true |>.flag (F.ftOneshot 0) true) fun z =>
     z.get (F.ftFires 0) == 1 && !z.on (F.ftEnable 0) && (z.chan 3).due == 3,
   does (.freeTimerFire .W 7) (s 1) (s 1),
   ends (.dmaDescFetchDone .W 3 none) (got 2 c) fun z => z.chState 3 == 0, raises (.dmaDescFetchDone .W 3 none) (got 2 c) 0x65 (3 + 65536 * 2),
   ends (i good) (got 3 ring') fun z => z.chState 3 == 0 && z.get (F.chEmpty 3) == 1,
   ends (i good) (got 2 ring') fun z => z.chState 3 == 1 && !z.on (F.chPending 3),
   ends (i good) ((got 2 ring').flag (F.chPending 3) true) fun z => z.chState 3 == 2 && !z.on (F.chPending 3) && (z.chan 3).fetching,
   raises (i good) (got 2 ring') 0x62 (3 + 65536 * 2),
   err c (desc 0 0x1000 0 4 0 0) 3, err c (desc 0 (0x80000000 - 99) 100 4 0 0) 3, err c (desc 0 0 1 0 0 0) 2, err c (desc 0 0 1 3 0 0) 2,
   err c (desc 0 0 1 4 0x40 0) 4, err c (desc 0 0 1 4 0 16) 4, err ring' (own'.set 23 0x81) 4,
   err { c with options := 0x804 } (desc 1 0x1000 100 4 0 0) 1,
   does (i good) (got 2 c) (s 2 { c with asked := true, desc := some good, dramSide := some true }),
   emits (i good) (got 2 c) (.hostRead 0 100), emits (i (desc 500 0x1000 100 4 0 0)) (got 2 c) (.hostRead 500 12),
   emits (i (desc 500 0x1014 100 4 0 0)) (got 2 { c with options := 0x0804 }) (.hostRead 512 96),
   does (i own') (got 2 ring') (s 2 { ring' with asked := true, desc := some own', dramSide := some true }),
   err c (good.set 21 0x08) 4, ends (i good) { (got 2 c) with hif := { (got 2 c).hif with d3hot := true } } fun z => (z.chan 3).fetching,
   descCheck c (desc 0 (0x80000000 - 100) 100 4 0 0) == 0]

theorem witness_triggers : triggers.all id = true := by decide +kernel

/-- Descriptors move their bytes and end. How many of the writes to memory have landed when a command ends is free, so of those that
write memory the hypotheses alone stand here. -/
def transfers : List Bool :=
  let x := eng
  let s (b : List Byte) (c : Channel := Channel.reset) : Die := (x.setChan 3 { c with desc := some b, asked := true }).put (F.chState 3) 2
  let data : List Byte := [1, 2, 3, 4, 5]
  let half := desc 0 0x1000 5 4 1 0
  let last := desc 0 0x1000 5 4 0x10 0
  let set := desc 0 0x1000 5 4 0x30 0
  let out := desc 0x1000 0x9000 5 1 0 0
  let next := desc 0 0x1000 5 4 0x24 0x60
  let settled (b : List Byte) : Die := s b { Channel.reset with settling := true }
  let inHost (b : List Byte) (c : Channel) (i : Nat) : Bool :=
    (s b c).running 3 == some b && dSrcTgt b == 0 && dDstTgt b == 1 && dLen b == 5 && (s b c).permits 6 true (dDst b + i) (dLen b - i) 1 &&
      !(s b c).hif.d3hot
  [inHost half Channel.reset 0 && Channel.reset.halfDue half && x.permits 6 true (dDst half) 3 1,
   inHost half { Channel.reset with half := some 3 } 3 && !({ Channel.reset with half := some 3 } : Channel).halfDue half,
   inHost set Channel.reset 0 && dFlag set 5, inHost last Channel.reset 0 && !dFlag last 5 && dFlag last 4 && !Channel.reset.halfDue last,
   emits (.dmaDescDone .W 3 ⟨[], false, [], [], []⟩) ((s out).poke true 0x1000 data) (.hostWrite 0x9000 data false false),
   ends (.dmaSettleDone .W 3) (settled set) fun z => z.chState 3 == 0 && z.get (F.chUnits 3) == 1,
   raises (.dmaSettleDone .W 3) (settled set) 0x63 3,
   emits (.dmaDescDone .W 3 ⟨[], false, [], [], []⟩) ((s (out.set 20 0x20)).poke true 0x1000 data) (.hostRead 0x9000 0),
   ends (.dmaSettleDone .W 3) ((settled next).setChan 3 { (settled next).chan 3 with failed := some (7, 2) }) fun z =>
     z.chState 3 == 0 && z.get (F.chLastErr 3) == 7,
   raises (.dmaSettleDone .W 3) ((settled next).setChan 3 { (settled next).chan 3 with failed := some (7, 2) }) 0x60
     (3 + 256 * 7),
   ends (.dmaSettleDone .W 3) (settled next) fun z => z.chState 3 == 1 && (z.chan 3).addr == 0x60]

theorem witness_transfers : transfers.all id = true := by decide +kernel

/-- DRAM, the check units and the key of a sender. The master that a scrub names is free, so its report is not read here. -/
def memories : List Bool :=
  let x := act.flag F.bootDone true
  let run := { x with power := .active }.flag F.initDone true
  let key : AliveKey := .ldb 3
  let keyed := { x with pcl := { x.pcl with rxAlive := [(key, 4), (.host, 5)] } }
  let w := 0x70000000 - 32
  let scrub (y : Die) (fixed : Nat) : Die := ({ y with free := run.free + 1, mem := { y.mem with scrubAt := 64 } }).traffic true 2 fixed
  let pick (v : Word) (i code : Nat) : Bool := ends (.cvuSelWrite .W v) x fun z => cvuSel z i == code
  [does (.dramInitDone .W) { boot with mem := { boot.mem with dram := [(1, 1)], dramUe := [32] } } (boot.flag F.initDone true),
   does (.dramInitRetry .W) boot { boot with mem := { boot.mem with initFailed := true } }, raises (.dramInitRetry .W) boot 0x75 0,
   does (.dramScrub .W w ⟨[w], []⟩) boot boot, run.scrubs && run.mem.dramUe.isEmpty,
   run.scrubbed 64 32 && !run.scrubbed 64 64 && { run with mem := { run.mem with scrubAt := 64 } }.scrubbed 32 0,
   does (.dramScrub .W 64 ⟨[64], [64]⟩) run (scrub run 0),
   does (.cvuSelWrite .W 0) (x.flag F.sealed true) (x.flag F.sealed true), pick 0x333333 0 3, pick 0x333333 5 3, pick 0x333233 2 2,
   pick 0x333133 2 (cvuSel x 2), pick 0x00000004 0 (cvuSel x 0), raises (.cvuSelWrite .W 0x333133) x 0xF1 (0x3800 + 65536 * 0x3133),
   ends (.aliveKeyExpire .W key) keyed fun z => z.pcl.rxAlive == [(.host, 5)],
   ends (.oddCfgWrite .W 0x27) (x.flag F.run true) fun z => z.get F.depth == x.get F.depth && z.on F.odEn,
   ends (.oddCfgWrite .W 0x25) x fun z => z.get F.depth == 2 && !z.on F.dithEn && z.on F.temporal,
   raises (.oddCfgWrite .W 0x30) x 0x99 (0x5800 + 65536 * 0x30)]

theorem witness_memories : memories.all id = true := by decide +kernel

/-- The check value of each algorithm over "123456789" (R229). -/
def checkValues : List Bool :=
  let nine : List Byte := [0x31, 0x32, 0x33, 0x34, 0x35, 0x36, 0x37, 0x38, 0x39]
  [cvu 0 nine == 0xE3069283, cvu 1 nine == 0xCBF43926, cvu 2 nine == 0x29B1, cvu 3 nine == 0xDF]

theorem test_checkValues : checkValues.all id = true := by decide +kernel

/-- A half of 1920 × 1080 at 60 Hz with 1125 lines, RUN 0. -/
def raster : Die :=
  (((((act.flag F.bootDone true).put F.halfW 1920).put F.halfH 1080).put F.vTotal 1125).put F.modeId 9).put F.slowId 9

/-- RUN, the raster, TE and the layers' latches. -/
def rasterSettings : List Bool :=
  let x := raster
  let run := (x.flag F.run true)
  let narrow := x.put F.halfW 15
  let te (ok : Bool) (ps : List Nat) : Die := { x.flag F.teOk ok with cclk := 1000, tmg := { x.tmg with teLast := some 400, tePeriods := ps } }
  let latched := (x.flag F.hLatch true).flag F.tLatch true
  let frozen := { x.flag F.bltFrozen true with bltSetters := [3] }
  [does (.runSet .W) run run, does (.runSet .W) narrow narrow, raises (.runSet .W) narrow 0x87 0x14000,
   ends (.runSet .W) x fun z => z.on F.run && z.on F.tmgRunning && z.wear.reading == some 0 && z.out.contains (.pidRead (x.get F.pidAddr) (x.on F.pidFast) 0 256),
   does (.runClear .W) ((run.flag F.tmgRunning true)) x,
   does (.tmgRasterWrite .W 0x400C 1125) run run, raises (.tmgRasterWrite .W 0x400C 1126) run 0x87 (0x400C + 65536 * 1126),
   ends (.tmgRasterWrite .W 0x4004 0x0FFF07FF) x fun z => z.get F.halfW == 2047 && z.get F.halfH == 4095 && z.get F.vTotal == 1125,
   ends (.tmgRasterWrite .W 0x400C 1126) x fun z => z.get F.lineCclk == 2000000000 / (5 * 60 * 1126) && z.get F.halfW == 1920,
   does (.tmgModeWrite .W 0x00110009) x x, raises (.tmgModeWrite .W 0x00110009) x 0x87 (0x4008 + 65536 * 9),
   raises (.tmgModeWrite .W 0x00000009) x 0x87 (0x4008 + 65536 * 9), raises (.tmgModeWrite .W 0x0009010A) x 0x87 (0x4008 + 65536 * 0x010A),
   ends (.tmgModeWrite .W 0x00100110) x fun z => z.get F.modeId == 16 && z.on F.variable && z.get F.lineCclk == 2000000000 / (5 * 240 * 1125),
   does (.teEdge .W) (te true [7]) { (te true [7]).put F.tePeriod 600 with tmg := { x.tmg with teLast := some 1000, tePeriods := [600, 7] } },
   ends (.teEdge .W) (te false [600, 600, 600]) fun z => z.on F.teOk && z.get F.tePeriod == 600, raises (.teEdge .W) (te false [600, 600, 600]) 0x85 600,
   ends (.teEdge .W) (te false [600, 600]) fun z => !z.on F.teOk,
   does (.teLost .W) (te true []) { (te false []).bump F.tmgTeLost with tmg := x.tmg }, raises (.teLost .W) (te true []) 0x84 0,
   ends (.layerLatchClear .W true) latched fun z => !z.on F.tLatch && z.on F.hLatch,
   ends (.layerLatchClear .W false) latched fun z => !z.on F.hLatch && z.on F.tLatch,
   does (.blotterFrozenClear .W) frozen x]

theorem witness_rasterSettings : rasterSettings.all id = true := by decide +kernel

/-- Nominal starts, in 1/18 ns: at 60 Hz T_min is 300,000,000 units, and the bound of the variable mode lies 45 units below it. -/
def nominals : List Bool :=
  let x := ((raster.flag F.run true).flag F.scanOwn true).put F.join 4
  let x (p : Nat) : Die := { x with acd := { x.acd with time := 20000000 * nsUnit, deadlines := [⟨7, p, 0⟩] }, tmg := { x.tmg with lastNominal := some 0 } }
  let v (p : Nat) : Die := ((x p).flag F.variable true).put F.slowId 5
  let due (y : Die) (o : Nominal) : Bool := ends (.nominalStart .W) y fun z => z.tmg.due == some o && z.tmg.lastNominal == some o.time
  [does (.nominalStart .W) raster raster, does (.frameStart .W) raster raster, (x 0).framesRun, !(x 0).stitchUp,
   (x 0).fixedPoint == 18 * 16666667, due (x 16666667) ⟨18 * 16666667, some 7, false⟩, due (x 16666668) ⟨18 * 16666667, none, false⟩,
   (v 0).tMin == 300000000 && (v 0).tMax == 600000000,
   due (v 16666664) ⟨18 * 16666667, some 7, true⟩, due (v 16666665) ⟨18 * 16666665, some 7, false⟩,
   due (v 33333333) ⟨18 * 33333333, some 7, false⟩, due (v 33333334) ⟨600000000, none, false⟩]

theorem witness_nominals : nominals.all id = true := by decide +kernel

/-- The hypotheses of a frame start with a new frame, and of a repeat. The memory traffic that a start reports is free, so its
registers are not read here. -/
def frameStarts : List Bool :=
  let x := ((raster.flag F.run true).flag F.scanOwn true).put F.join 4
  let y := x.setBuf 1 { frame := some 7, settled := true, slices := [], held := 0 }
  let y := { y with tmg := { y.tmg with due := some ⟨0, some 7, false⟩, pending := 4 } }
  let z := x.setBuf 0 { frame := some 6, settled := true, slices := [], held := 0 }
  let z := { z with tmg := { z.tmg with due := some ⟨0, none, false⟩ } }
  [y, z].map (fun x => x.framesRun && !x.stitchUp && x.sti.start.isNone && x.tmg.due.isSome && x.pcl.deferred.isEmpty && !x.on F.bltFrozen && !x.acd.freeze) ++
    [y.bufOf 7 == some 1 && (y.buf 1).settled, z.shownNo == some 6]

theorem witness_frameStarts : frameStarts.all id = true := by decide +kernel

/-- Line periods, blanking and the frame end. -/
def lines : List Bool :=
  let x := ((act.put F.halfW 16).put F.halfH 8).flag F.scanOwn true
  let at' (n : Nat) (x : Die := x) : Die := { x with tmg := { x.tmg with inFrame := true, lines := n } }
  let none' : MemObs := ⟨[], [], [], []⟩
  let c : Instr := .lineStart .W none'
  let stage := ((((x.flag F.ldbEn true).put F.stageLines 4).put (F.rgnFlags 40) 0x1D).put (F.rgnSize 40) 0x800)
  let stage := stage.poke false (stage.stageAt 1) (List.replicate 96 7)
  let timer := (((x.flag F.run true).flag (F.tmEnable 7) true).put (F.tmStep 7) 1).put (F.tmCount 7) 1
  let w : Wait := ⟨⟨3, false, [1, 2, 3, 4], 7⟩, 3, 0, 0, 0⟩
  let rx := (((ring.put F.halfW 16).put F.halfH 8).flag F.scanOwn true)
  let waits := at' 9 { rx with hif := { rx.hif with wait := some w } }
  let q : Rect := ⟨1, true, 0, 0, 16, 8, [5, 0, 0, 0]⟩
  let blot (crc : Nat) (run : Nat) : Die := at' 11 (({ x with lyr := { x.lyr with bltSel := 2 } }.setRect 15 ⟨some q, none, run, crc⟩))
  [does c x x, does c (at' 3 (x.flag F.scanOwn false)) (at' 3 (x.flag F.scanOwn false)),
   does c (at' 0) ((at' 1).aheadLine 0), does c (at' 9) (((at' 10).put F.curLine 9).aheadLine 9), ends c (at' 8) fun z => z.tmg.lines == 9 && z.get F.curLine == 8,
   stage.permits 5 false (stage.stageAt 1) 96 1,
   ends c (at' 2 stage) fun z => z.peek false (z.stageAt 1) 96 == List.replicate 96 0 && z.tmg.lines == 3,
   ends c (at' 0 timer) fun z => z.get (F.tmFires 7) == 1,
   does (.vblankStart .W) (at' 8) (at' 8), does (.vblankStart .W) waits (at' 9 rx), emits (.vblankStart .W) waits (ring.completionOut w.cmd 0 0),
   does (.frameEnd .W) (at' 10) (at' 10),
   ends (.frameEnd .W) (blot 6 0) fun z => (z.rect 15).run == 1 && (z.get F.bltMismatch).testBit 15 && z.get (F.bltCount 15) == 1 &&
     z.on F.bltFrozen && z.get (F.bltValue 15) == cvuFinal 2 6 && z.trim.window,
   cvuFinal 2 5 == 5, ends (.frameEnd .W) (blot 5 3) fun z => (z.rect 15).run == 0 && z.get F.bltMismatch == 0 && z.get F.evtCode == 0xB1]

theorem witness_lines : lines.all id = true := by decide +kernel

/-- Log codes at the ends of their ranges (R283). -/
def codes : List Bool :=
  [logCode 0 == 0, logCode 1023 == 1023, logCode 1024 == 1024, logCode 2047 == 2047, logCode 2048 == 2048, logCode (2 ^ 48 - 1) == 39935,
   logDecode 1023 == 1023, logDecode 1024 == 1024, logDecode 2047 == 2047, logDecode 2048 == 2049, logDecode 39935 == 2047 * 2 ^ 37 + 2 ^ 36]

theorem witness_codes : codes.all id = true := by decide +kernel

/-- The pixel pipeline at its ends; the colour is the worked example of R264. -/
def pixels : List Bool :=
  let x := ((List.range 9).foldl (fun (x : Die) i => x.put (F.cmCoef i) (if i % 4 = 0 then 0x4000 else 0)) act).put F.brightness 4095
  [ycbcr 1 8 false 180 1600 2400 == (59213, 47598, 33876), ycbcr 2 10 false 64 8192 8192 == (0, 0, 0), ycbcr 2 10 false 940 8192 8192 == (65535, 65535, 65535),
   ycbcr 1 8 true 255 2048 2048 == (65535, 65535, 65535), blend false 40000 65535 0 == 40000, blend false 40000 1 65535 == 1,
   blend true 65535 0 0 == 65535, x.get F.eotfSel == 0 && x.eotf 2 65535 == 65535, x.bright 65535 == 65535,
   (x.put F.brightness 0).bright 65535 == 0, x.gamut (65535, 1, 0) == (65535, 1, 0),
   (x.put F.depth 2).get F.depth < 3 && (x.put F.depth 2).dither 65535 0 5 7 < 65536, !(x.flag F.dithEn false).on F.dithEn]

theorem witness_pixels : pixels.all id = true := by decide +kernel

/-- Each depth with dither on, at the ends of the range of values. -/
def dithers : List Bool :=
  let x (d : Nat) : Die := (act.put F.depth d).flag F.dithEn true
  let sum (d v : Nat) : Nat := ((List.range 4).map fun p => ((x d).put F.oddPhase p).dither v 0 0 0).sum
  [(x 0).depth == 12 && (x 0).on F.dithEn, (x 1).depth == 14, (x 2).depth == 16, sum 0 65535 == (65520 + 0) / 4, sum 1 65535 == 65532,
   sum 2 65535 == 4 * 65535, sum 0 0 == 0, sum 1 5 == 5]

theorem witness_dithers : dithers.all id = true := by decide +kernel

/-- A half of 8 × 8 with the rights and settings of its masters. -/
def half8 : Die :=
  let x := ((act.flag F.bootDone true).put F.halfW 8).put F.halfH 8
  let x := (x.put (F.rgnFlags 56) 0x1F).put (F.rgnSize 56) 0x70000
  { (x.put (F.rgnFlags 24) 0x1F).put (F.rgnSize 24) 0x70000 with power := .active }

/-- A store that is ready for a ledger of its panel. -/
def ready8 : Die :=
  let x := (half8.flag F.cstReady true).flag F.wearEn true
  { x with wear := { x.wear with ledgerOk := true, mapKeyOk := true, key := some (List.replicate 16 7) } }

/-- Correction and wear. -/
def wear : List Bool :=
  let x := ready8
  let build := { x with wear := { x.wear with build := true } }
  let pass := { (x.flag F.building true) with wear := { x.wear with pass := true } }
  let fold := x.flag F.corFold true
  let busy := { x with cst := { x.cst with op := .erase 9 0 } }
  let late := { x.flag F.overdue true with wear := { x.wear with overdue := [0, 5] } }
  let hour (h : Nat) (c : Instr) (x : Die) (p : Die → Bool) : Bool :=
    after c { st x with mod := { used with rtc := BitVec.ofNat 48 (3600 * h + 3599) } } fun t => p t.w
  let isPart (z : Die) (p : Nat) : Bool := match z.cst.op with | .part q c 0 _ false => q == p && c < 2 | _ => false
  let off := x.flag F.wearEn false
  let lap := ((off.flag F.ldbEn true).put F.stageLines 4).put F.stageBase (off.get F.stripBase)
  [does (.corMapBuildDone .W) x x, build.mapSource == none, does (.corMapBuildDone .W) build x, raises (.corMapBuildDone .W) build 0x91 0,
   build.permits 7 true (bankAt build.inuse) build.bankBytes 1,
   does (.retargetStart .W) x x, does (.retargetStart .W) { fold with power := .deep } { fold with power := .deep },
   hour 22 (.retargetStart .W) (fold.put F.foldHour 31) fun z => z.get F.evtCode == 0,
   hour 23 (.retargetStart .W) (fold.put F.foldHour 31) fun z => z.get (F.evtRaised 9) == 1,
   ends (.retargetStart .W) fold fun z => !z.wear.pass, ends (.retargetStart .W) { fold with power := .relay } fun z => !z.wear.pass,
   does (.retargetPassDone .W) x x, does (.retargetPassDone .W) pass x, raises (.retargetPassDone .W) pass 0x93 4,
   hour 23 (.wearCheckpoint .W) off fun z => z.wear.overdue == [23] && z.on F.overdue && z.get F.nextPart == 0,
   hour 22 (.wearCheckpoint .W) busy fun z => z.cst.wait == some 22 && z.get F.nextPart == 23,
   x.mayCheckpoint, x.height / 8 == 1 && hour 0 (.wearCheckpoint .W) x fun z => isPart z 0 && z.get F.nextPart == 1 && z.on F.cstBusy,
   does (.wearCheckpointOverdue .W) x x, does (.wearCheckpointOverdue .W) { late with power := .deep } { late with power := .deep },
   ends (.wearCheckpointOverdue .W) late fun z => isPart z 0 && z.wear.overdue == [5] && z.on F.overdue,
   lap.stripOverlaps, ends (.wearEnable .W 0x20000000) lap fun z => !z.on F.wearEn && z.get F.gmax == 0x2000,
   ends (.wearEnable .W 0x20000000) off fun z => z.on F.wearEn,
   does (.wearStripWrite .W 0x20) x x, ends (.wearStripWrite .W 0x20) off fun z => z.get F.stripBase == 1]

theorem witness_wear : wear.all id = true := by decide +kernel

/-- The driver bus with lane 31 alone, one IC of 16 channels and two rows. -/
def bus : Die :=
  let x := ((((half8.put F.ldbLanes (2 ^ 31)).put F.sM1 1).put F.stageLines 4).put F.segLog2 10).put F.gclkCur 0x0A0000
  ((((((x.put F.ldbNM1 0).put F.ldbCh 0).put F.depth 0).put F.addrDly 1).put F.offGclk 2).flag F.gclkRun true).put F.lineCclk 300000

/-- A lane's alive counter starts at 0. -/
def latchFrame (x : Die) (bank : Nat) : Out := .ldb 31 (ldbFrame 2 2 0 0 true 0 0 (x.scanWords bank) 0)

def busRuns : List Bool :=
  let x := bus
  let en := x.flag F.ldbEn true
  let own := en.flag F.scanOwn true
  let run := { own with tmg := { own.tmg with inFrame := true, lines := 9 }, ldb := { own.ldb with skip := false, bank := 1 } }
  let sent := { run with ldb := { run.ldb with sent := [(31, 0, 0), (31, 1, 0)] } }
  let black := run.flag F.ldbEn true
  let black := { black with acd := { black.acd with hostBlank := true } }
  let drv := { own with ldb := { own.ldb with driving := true, row := 1, latchPending := true, latched := 3 } }
  [cvuSel x 2 == 2, x.enableFault == none, ends (.ldbEnable .W) x fun z => z.on F.ldbEn, does (.ldbEnable .W) en en,
   raises (.ldbEnable .W) (x.flag F.gclkRun false) 0xA0 1, raises (.ldbEnable .W) (x.put F.stageLines 0) 0xA0 3,
   raises (.ldbEnable .W) (x.put F.addrDly 0) 0xA0 6, raises (.ldbEnable .W) (x.put F.lineCclk 1) 0xA0 5, does (.ldbDisable .W) x x,
   does (.ldbDisable .W) en { x with ldb := { x.ldb with skip := true } } || !en.ldb.skip,
   en.takeover == .none && !en.ldb.unknown && !en.scanOpen && ends (.ldbDisable .W) en fun z => !z.on F.ldbEn && !z.ldb.dclk && z.ldb.skip,
   ends (.ldbDisable .W) own fun z => !z.on F.scanOwn && z.out.contains .rowRelease && z.power == .active,
   isLdbCfg 0x600C, does (.ldbCfgWrite .W 0x600C (x.reg 0x600C)) x x,
   raises (.ldbCfgWrite .W 0x600C 0x00010102) x 0xAC (0x600C + 65536 * 0x0102), raises (.ldbCfgWrite .W 0x600C 0x00000102) x 0xAC (0x600C + 65536 * 0x0102),
   does (.ldbCfgWrite .W 0x600C 0x00010201) (x.put F.sM1 7) ((x.put F.sM1 7).store 0x600C 0x00010201),
   raises (.ldbCfgWrite .W 0x6008 0xFFFFFFFF) en 0xAC (0x6008 + 65536 * 0xFFFF),
   does (.gsWriteSend .W 31 0 0 0) x x, run.ldbSends, run.ics == 1 && run.scanRatio == 2, (run.rowPixels 31 1 0 1).all run.pixelReady,
   ends (.gsWriteSend .W 31 1 0 0) black fun z => z.ldb.sent == [(31, 1, 0)] && look z.ldb.txAlive 31 == some 1 &&
     z.out.contains (.ldb 31 (ldbFrame 2 1 0 1 false 0 1 (List.replicate 36 0) 0)), black.blanked && black.gsLen 1 == 36,
   does (.latchSend .W) run run, sent.allSent && sent.ldb.latched != sent.ldb.bank,
   ends (.latchSend .W) sent fun z => z.ldb.latched == 1 && z.ldb.latchPending && z.out.contains (latchFrame sent 1),
   does (.segmentBoundary .W) (own.flag F.gclkRun false) (own.flag F.gclkRun false),
   does (.segmentBoundary .W) x { x with clk := { x.clk with seg := 10 } },
   ends (.segmentBoundary .W) own fun z => z.ldb.row == 0 && z.ldb.oe && z.out.take 3 == [.row 0 false, .row 0 false, .row 0 true],
   ends (.segmentBoundary .W) drv fun z => z.ldb.row == 0 && z.ldb.shown == 3 && !z.ldb.latchPending && z.out.take 3 == [.row 1 false, .row 0 false, .row 0 true],
   ends (.segmentBoundary .W) { drv with ldb := { drv.ldb with row := 0, oe := true } } fun z => z.ldb.row == 1 && z.ldb.shown == 0 && z.ldb.latchPending]

theorem witness_busRuns : busRuns.all id = true := by decide +kernel

/-- The panel keeps its picture. -/
def handsOff : List Bool :=
  let x := bus.put F.idleMs 1
  let own := (x.flag F.ldbEn true).flag F.scanOwn true
  let cause := { own.flag F.silHost true with handoffDue := true, ldb := { own.ldb with latched := 2, driving := true, oe := true, dclk := true } }
  let relay := { ((x.flag F.silHost true).flag F.silHostDeep true).flag F.qEnable true with power := .relay }
  let left := { relay with leaveSyncs := 3, acd := { relay.acd with leaving := true } }
  let unit := (left.put (F.chState 3) 2).put (F.chState 4) 1
  let dry := { x with power := .drydown, forwarding := true, hif := { x.hif with polling := true } }
  [does (.sillageIdleTimeout .W) (bus.put F.idleMs 0) (bus.put F.idleMs 0), x.get F.join != 4, ends (.sillageIdleTimeout .W) x fun z => z.on F.silIdle && z.power == .relay,
   ends (.sillageIdleTimeout .W) own fun z => z.on F.silIdle && z.power == .active && !z.on F.silHost,
   does (.sillageHandoff .W) own own, own.power == .active && !cause.tmg.inFrame,
   ends (.sillageHandoff .W) cause fun z => z.power == .relay && !z.on F.scanOwn && !z.on F.gclkRun && !z.ldb.dclk && !z.ldb.oe && !z.ldb.driving &&
     z.on F.ldbEn && z.get F.handoffs == 1 && z.out.contains .rowRelease && z.out.contains (.ldb 31 (ldbFrame 2 3 0 0 true 0 0 (cause.scanWords 2) 0)),
   does (.sillageDeepEntry .W) own own, does (.sillageDeepEntry .W) (relay.flag F.silHostDeep false) (relay.flag F.silHostDeep false),
   does (.sillageDeepEntry .W) { relay.flag F.silHostDeep false with acd := { relay.acd with leaving := true } } (relay.flag F.silHostDeep false),
   relay.deepHolds && !left.dmaDramBusy && !left.cst.op.flushing && unit.dmaDramBusy && unit.deepHolds,
   does (.sillageDeepEntry .W) relay { left with leaveSyncs := 0 },
   does (.sillageDeepEntry .W) { left with leaveSyncs := 2 } { left with leaveSyncs := 2 },
   ends (.sillageDeepEntry .W) unit fun z => z.power == .relay && z.acd.leaving && z.chState 3 == 2 && (z.chan 3).draining && z.chState 4 == 0,
   ends (.sillageDeepEntry .W) left fun z => z.power == .deep && z.on F.selfRefresh && z.acd.leaving && z.laneSt 3 == 9 && z.laneSt 0 != 9,
   does (.drydownForwardEnd .W) x x, ends (.drydownForwardEnd .W) dry fun z => !z.forwarding && !z.hif.polling]

theorem witness_handsOff : handsOff.all id = true := by decide +kernel

/-- A die that may take the scan over. -/
def taker : Die :=
  let x := ((((bus.flag F.ldbEn true).flag F.run true).put F.join 4).put F.gclkNext 0x0A0000).setBuf 1
    { frame := some 7, settled := true, slices := [], held := 0 }
  { x with acd := { x.acd with deadlines := [⟨7, 1, 0⟩] } }

/-- A reply of the scan master, in HOLD with bank 3. -/
def reply (st0 : BitVec 16) (alive : BitVec 16) : List (BitVec 16) :=
  let b := [st0, 0] ++ List.replicate 6 0 ++ [alive]
  0xA5C3 :: b ++ [ldbCheck 2 b]

def takeovers : List Bool :=
  let x := taker
  let rd (x : Die) (t : Takeover) : Die := { x with takeover := t, wear := { x.wear with readDone := true } }
  let nogo := x.flag F.run false
  let pid : Out := .pidRead (x.get F.pidAddr) (x.on F.pidFast) 0 256
  let stopped := (x.flag F.gclkRun false)
  let reading (n : Nat) : Die := { nogo with wear := { nogo.wear with reading := some n } }
  let asked (t : Takeover) (again : Bool) : Die :=
    let y := rd x t
    { y with ldb := { y.ldb with requests := y.ldb.requests.setIfInBounds 0 (some ⟨0, 0, again⟩) } }
  let ok (z : Die) : Bool := z.takeover == .asked && z.ldb.dclk && z.on F.silTakeover && z.echo 0 == some ⟨0, 0, false⟩ && z.out.contains (.ldbIdle 0 2)
  let rec0 (z : Die) : Bool := z.takeover == .waiting && z.wear.reading == some 0 && z.on F.pidBusy && z.out.contains pid
  let body : List Byte := [0x4C, 0x4E, 0x49, 0x44, 0x01, 0] ++ le 2 48 ++ List.replicate 16 9 ++ List.replicate 20 0
  let good : IdRead := .record (body ++ cvuField 1 4 body)
  let st0 : BitVec 16 := 0xE000
  [x.takeoverReady && x.wear.reading == none && !x.wear.readDone, !nogo.takeoverReady, does (.takeoverStart .W) nogo nogo,
   ends (.takeoverStart .W) (rd x .none) rec0, ends (.takeoverStart .W) x rec0, ends (.takeoverStart .W) { x with power := .relay } rec0,
   ends (.takeoverStart .W) (rd x .waiting) ok, ends (.takeoverStart .W) (rd nogo .waiting) fun z => z.takeover == .none,
   does (.takeoverStart .W) (rd x .resumed) (rd x .resumed),
   does (.takeoverRetry .W) x x, ends (.takeoverRetry .W) (rd x .failed) ok, ends (.takeoverRetry .W) { x with takeover := .failed } rec0,
   ends (.takeoverRetry .W) (rd nogo .failed) fun z => z.takeover == .none, does (.gclkStartRetry .W) x x,
   (rd stopped .waiting).clk.phase == .none && ends (.gclkStartRetry .W) (rd stopped .waiting) fun z => z.takeover == .waiting &&
     z.clk.phase == .locking false && z.clk.target == 0x0A0000 && z.on F.gclkPend,
   does (.identityReadDone .W .noAck) nogo nogo, does (.identityReadDone .W .noAck) (reading 1) (reading 2),
   emits (.identityReadDone .W .held) (reading 0) pid, recordFault .noAck == 1 && recordFault .held == 4 && recordFault (.record []) == 2,
   recordFault (.record (body ++ [0, 0, 0, 0])) == 3, recordFault good == 0,
   ends (.identityReadDone .W .noAck) (reading 2) fun z => z.wear.readDone && z.wear.key == none && !z.on F.recordOk,
   raises (.identityReadDone .W .noAck) (reading 2) 0x94 2 || raises (.identityReadDone .W .noAck) (reading 2) 0xA6 1,
   ends (.identityReadDone .W good) (reading 0) fun z => z.wear.readDone && z.wear.key == some (List.replicate 16 9) && z.on F.recordOk,
   does (.echoReplyReceive .W 0 []) x x, does (.ldbEchoTimeout .W 3) x x, x.flagWords == 3, x.replyOk 6 (reply st0 1),
   ends (.echoReplyReceive .W 0 (reply st0 1)) (asked .asked false) fun z => z.takeover == .resumed && z.get F.heldBank == 3 &&
     z.out.contains (.ldb 31 (ldbFrame 2 6 0 0 true 0 0 [] 0)),
   raises (.echoReplyReceive .W 0 (reply 0 1)) (asked .asked false) 0xAA 2,
   ends (.echoReplyReceive .W 0 (reply 0 1)) (asked .none false) fun z => z.ldb.flags == [(0, 0, [0, 0, 0], [0, 0, 0])] && z.get (F.cvuPass 2) == 1,
   does (.echoReplyReceive .W 0 []) (asked .asked false) (asked .asked false),
   ends (.echoReplyReceive .W 0 [0xA5C3]) (asked .asked false) fun z => z.echo 0 == some ⟨0, 0, true⟩ && z.get F.echoFail == 1,
   ends (.ldbEchoTimeout .W 0) (asked .asked false) fun z => z.echo 0 == some ⟨0, 0, true⟩ && z.get F.echoTo == 1,
   ends (.ldbEchoTimeout .W 0) (asked .asked true) fun z => z.takeover == .failed && (z.echo 0).isNone,
   raises (.ldbEchoTimeout .W 0) (asked .asked true) 0xAA 1,
   does (.takeoverUnaligned .W) x x, ends (.takeoverUnaligned .W) (rd (x.put F.heldBank 3) .resumed) fun z => z.on F.scanOwn && z.power == .active &&
     z.takeover == .none && z.ldb.bank == 3 && z.ldb.shown == 3 && !z.ldb.oe && z.out.contains (.row 0 false)]

theorem witness_takeovers : takeovers.all id = true := by decide +kernel

/-- The replies to the probes of `n` taps: a tap of the mask `g` gives the payload back, any other stays silent. -/
def tapReplies (pay : List (BitVec 16)) (n g : Nat) : List Replies :=
  (List.range n).map fun t =>
    let b := [0, 0] ++ pay ++ [BitVec.ofNat 16 t]
    if g.testBit t then [some (0xA5C3 :: b ++ [ldbCheck 2 b])] else []

/-- The trim engine on lanes 30 and 31. -/
def trims : List Bool :=
  let x := ((bus.put F.ldbLanes (2 ^ 31 + 2 ^ 30)).flag F.ldbEn true).flag F.scanOwn true
  let at' (k pos : Nat) (x : Die := x) : Die := { x with trim := { x.trim with todo := [k], pos := pos, window := true } }
  let j : Job := ⟨⟨7, false, [1, 2, 3, 4], 7⟩, List.replicate 52 0, true⟩
  let host (y : Die) : Die := { y with hif := { ring.hif with trim := some j } }
  let r := (ring.put F.dbBaseLo 1)
  let h (todo : List Nat) (auto : Bool) : Die := { r with trim := { r.trim with todo := todo, auto := auto, old := 0xAA }, hif := { r.hif with trim := some j } }
  let lanes := { (lanesAll.foldl (fun (x : Die) k => x.laneTo k 6) { x with qphy := (port 6).qphy }) with power := .relay }
  let relay := { x with power := .relay, trim := { x.trim with todo := [3], code := 4095 } }
  let deskew (g : BitVec 64) : Instr := .trimStepDone .W (.deskew (tapReplies deskewPay 64 g.toNat))
  let thresh (low high : BitVec 32) : Instr := .trimStepDone .W (.thresh [] low high)
  let auto (k : Nat) : Die := x.put F.trmAuto (2 ^ k)
  [does (.trimStepDone .W (.rxoff true true)) x x, x.ldbLaneList == [30, 31], longestRun 0xFF0 64 == (8, 4), longestRun (2 ^ 64 - 1) 64 == (64, 0),
   ends (deskew 0xFF0) (at' 0 0) fun z => z.trim.pos == 1 && z.trim.tap == [(30, 7)] && z.trim.bad == [],
   ends (deskew 0x7F0) (at' 0 0) fun z => z.trim.bad == [30],
   ends (deskew (BitVec.allOnes 64)) (at' 0 1) fun z => z.trim.todo == [] && z.get (trimKind 0) == 1 && look z.trim.deskew 31 == some 31,
   ends (deskew 0) (at' 0 1) fun z => z.get (trimKind 0) == 2 && z.get F.failLanes == 2 ^ 31,
   x.threshInputs == [3, 4], ends (thresh 0x4 0x100) (at' 1 0) fun z => z.trim.pos == 1 && z.trim.tap == [(3, 5)] && z.trim.bad == [],
   ends (thresh 0x8 0x100) (at' 1 0) fun z => z.trim.bad == [3],
   (lanesAll.all fun k => lanes.laneSt k == 6) && (at' 0 0).windowOpen && ((at' 0 0).echo 3).isNone,
   ends (.trimStepDone .W (.thresh (tapReplies threshPay 32 1) 0 0)) (at' 1 0) fun z => z.trim.bad == [3] && z.get (F.cvuPass 2) == 1 &&
     z.get F.echoTo == 62,
   ends (.trimStepDone .W (.rxoff true true)) (at' 2 0 lanes) fun z => z.trim.pos == 1 && (z.lane 0).slipped && z.trim.bad == [],
   ends (.trimStepDone .W (.rxoff false true)) (at' 2 2 lanes) fun z => z.trim.pos == 3 && (z.lane 2).slipped && z.trim.bad == [2],
   does (.irefMeasureDone .W true) (at' 0 0) (at' 0 0), ends (.irefMeasureDone .W true) (at' 3 0) fun z => z.trim.irefDue && z.trim.todo == [3],
   ends (.irefMeasureDone .W true) relay fun z => z.trim.todo == [] && z.get (trimKind 3) == 1 && z.get F.irefCode == 4095 && z.out.contains (.iref 4095),
   ends (.irefMeasureDone .W false) (at' 3 0) fun z => z.get (trimKind 3) == 2 && z.on F.failIref, raises (.irefMeasureDone .W false) (at' 3 0) 0xC1 3,
   does (.trimAuto .W 0) (x.put F.trmAuto 0) (x.put F.trmAuto 0), ends (.trimAuto .W 0) (auto 0) fun z => z.trim.todo == [0] && z.trim.auto && z.get (trimKind 0) == 3,
   ends (.trimAuto .W 1) { auto 1 with trim := { x.trim with todo := [2] } } fun z => z.trim.due == 2 && z.trim.todo == [2],
   ends (.trimAuto .W 2) ((auto 2).flag F.scanOwn false) fun z => z.trim.todo == [2],
   (let y := (auto 2).put (trimKind 2) 1; does (.trimAuto .W 2) y y || (y.put F.trmDelta 0).get F.trmDelta == 0),
   does (.trimWait .W 1) x x, raises (.trimWait .W 1) (at' 1 0) 0xC2 2, does (.trimWait .W 1) (at' 1 0) { at' 1 0 with trim := { (at' 1 0).trim with waitRaised := true } },
   does (.trimStartTimeout .W) x x, (host x).hif.trim.isSome, emits (.trimStartTimeout .W) (h [2] true) (r.completionOut j.cmd 5 0),
   ends (.trimStartTimeout .W) (h [2] true) fun z => z.hif.trim.isNone && z.trim.todo == [2],
   ends (.trimStartTimeout .W) (h [3] false) fun z => z.trim.todo == [] && z.hif.trim.isNone && z.get (trimKind 3) == 2,
   emits (.trimStartTimeout .W) (h [3] false) (r.completionOut j.cmd 5 0x80), raises (.trimStartTimeout .W) (h [3] false) 0xC0 0]

theorem witness_trims : trims.all id = true := by decide +kernel

/-- The store's engine. -/
def storeRuns : List Bool :=
  let x := eng
  let j : Job := ⟨⟨0x0B, false, [1, 2, 3, 4], 7⟩, List.replicate 52 0, true⟩
  let op (o : StoreOp) (y : Die := x) : Die := { (y.flag F.cstBusy true) with cst := { y.cst with op := o }, hif := { y.hif with store := some j } }
  let prog (s : Bool) : Die := op (.program 0x90000 [1, 2, 3] s)
  let er (b n : Nat) : Die := op (.erase b n)
  let sus (y : Die) : Die := { y.flag F.cstSuspended true with cst := { y.cst with suspended := true } }
  let lost (e : Bool) : Die := op (.part 23 1 0 [[1, 2], [3]] e)
  let part (e : Bool) : Die := { lost e with wear := { x.wear with ledgerOk := true } }
  let boot := { act with power := .booting, cst := { act.cst with deviceOk := true } }
  let old := x.flag F.refreshEn true
  let time (n : Nat) (x : Die) (p : Die → Bool) : Bool :=
    after (.storeRefreshStart .W) { st x with mod := { used with rtc := BitVec.ofNat 48 n } } fun t => p t.w
  [boot.cst.deviceOk && !boot.on F.cstReady, does (.storeReady .W) x x, does (.storeProgramDone .W none) x x, does (.storeEraseDone .W true) x x,
   (prog false).cst.queued == none && (prog false).cst.wait == none && (prog false).cst.refresh == none,
   ends (.storeProgramDone .W none) (prog false) fun z => z.cst.op == .idle && z.hif.store.isNone && z.flashRead 0x90000 3 == [1, 2, 3] && !z.on F.cstBusy,
   emits (.storeProgramDone .W none) (prog false) (x.completionOut j.cmd 0 3), emits (.storeProgramDone .W none) (prog true) (x.completionOut j.cmd 10 0),
   emits (.storeProgramDone .W (some 2)) (prog false) (x.completionOut j.cmd 7 2), raises (.storeProgramDone .W (some 0)) (prog false) 0xD6 9,
   does (.storeEraseDone .W true) (sus (er 9 0)) (sus (er 9 0)), (er 9 1).cst.jslot < journalSlots,
   ends (.storeEraseDone .W true) (er 4094 1) fun z => z.cst.op == .erase 4095 0,
   ends (.storeEraseDone .W true) { er 8 0 with cst := { (er 8 0).cst with flash := [(8 * flashBlock, 1), (9 * flashBlock, 2)], jslot := 5 } } fun z =>
     z.cst.op == .idle && Memory.read 0xFF z.cst.flash (8 * flashBlock) == 0xFF && Memory.read 0xFF z.cst.flash (9 * flashBlock) == 2,
   emits (.storeEraseDone .W true) (er 8 0) (x.completionOut j.cmd 0 0),
   ends (.storeEraseDone .W true) (part false) fun z => z.cst.op == .part 23 1 0 [sealRecord (cvuSel x 3) [1, 2], [3]] true,
   ends (.storeEraseDone .W true) (lost false) fun z => z.cst.op == .idle, ends (.storeProgramDone .W none) (lost true) fun z => z.cst.op == .idle,
   ends (.storeProgramDone .W none) (part true) fun z => z.cst.op == .part 23 1 1 [[1, 2], [3]] false && z.flashRead (partBlock 23 1 * flashBlock) 2 == [1, 2],
   ends (.storeEraseResume .W) (sus (er 9 0)) fun z => !z.cst.suspended && !z.on F.cstSuspended, does (.storeEraseResume .W) x x,
   time 126230399 old fun z => z.cst.refresh == none, time 126230400 { old with cst := { old.cst with op := .erase 9 0 } } fun z =>
     z.cst.refresh == some (8, false) && z.on F.refreshRun && z.cst.op == .erase 9 0 && z.get F.evtCode == 0xD4]

theorem witness_storeRuns : storeRuns.all id = true := by decide +kernel

/-- BAR0 as the host reaches it. -/
def bar : List Bool :=
  let x := act.flag F.bootDone true
  let w (o : BitVec 16) (v : Word) (be : BitVec 4 := 0xF) : Instr := .registerWrite .W o v be
  let pend := { x with hif := { x.hif with link := { linkReset with msixEnable := true }, pba := 2 ^ 31, msix := [(124, 5), (125, 6), (126, 7)] } }
  let keep := { x with keep := ⟨3, 0x7F⟩ }
  let quiet (c : Instr) (x : Die) : Bool := ends c x fun z => (List.range 16).all fun i => z.get (F.evtRaised i) == x.get (F.evtRaised i)
  let sealed' := x.flag F.sealed true
  let viol := { (x.put ⟨0x3304, 0, 16⟩ 5) with mem := { x.mem with violHeld := true } }
  let rd (c : Instr) (y : Die) (v : Word) : Bool := emits c y (.barRead v)
  let sf (o : Nat) : List Byte := ent 4 [(8, [1]), (12, le 4 7 ++ le 4 o ++ le 4 0xFFFFFFFF)]
  let boot' := { act with power := .booting, cst := { act.cst with deviceOk := true } }
  let done := ((boot'.flag F.cclkLock true).flag F.initDone true).flag F.cstReady true
  let fails := ((boot'.flag F.cclkLock true).flag F.initDone true).flag F.deviceFail true
  let rows (o : Nat) : Bool := (regRow o).isSome
  [[0x1008, 0x1860, 0x3000].map fun o => plainReg o && rows o,
   [does (w 0x1008 0x01020304) x (x.store 0x1008 0x01020304), does (w 0x1008 0xFFFFFFFF 0) x x, does (w 0x1860 0xFFFFFFFF 4) x (x.setReg 0x1860 0xF1420), does (w 0x1860 0xFFFFFFFF) sealed' sealed', does (w 0x1008 7) act act, quiet (w 0x1008 7) act,
    does (w 0x0810 0xFFFFFF05) keep { keep with keep := ⟨3, 0x7A⟩ }, does (w 0x0810 0xFF 0xE) keep keep,
    ends (w 0x81F0 0x12345678) x fun z => smGet msixReset z.hif.msix 124 == 0x12345678,
    ends (w 0x81FC 0xFFFFFFFE) pend fun z => smGet msixReset z.hif.msix 127 == 0 && z.hif.pba == 0, emits (w 0x81FC 0) pend (.msix 31 (5 + 6 * 2 ^ 32) 7),
    pairHi 0x10B0 == some 0x10B4 && pairHi 0x081C == some 0x0820, rd (.loReadLatch .W 0x1808) (x.put ⟨0x1808, 0, 32⟩ 9) 9,
    does (.loReadLatch .W 0x4014) ((x.put F.frameHi 3)) { x.put F.frameHi 3 with latch := [(0x4018, 3)] },
    isPairHi 0x4018 && rd (.loReadLatch .W 0x4018) { x with latch := [(0x4018, 3)] } 3, rd (.loReadLatch .W 0x4018) (x.put F.frameHi 3) 0,
    rcBits 0x3304 != 0, rd (.rcCounterRead .W 0x3304) viol (viol.view ⟨used, .active, false⟩ 0x3304),
    ends (.rcCounterRead .W 0x3304) viol fun z => !z.mem.violHeld && z.get ⟨0x3304, 0, 16⟩ == 0, rcBits 0x1000 == 0, does (.rcCounterRead .W 0x1000) x x,
    rd (.rcCounterRead .W 0x1000) x (x.view ⟨used, .active, false⟩ 0x1000), x.served 0x1000 && pairHi 0x1000 == none && !isPairHi 0x1000,
    !act.served 0x1000 && rd (.rcCounterRead .W 0x1000) act 0, rd (.rcCounterRead .W 0x7FFC) x 0, does (.rcCounterRead .W 0x81F0) pend pend, rd (.rcCounterRead .W 0x81F0) pend 5,
    rd (.rcCounterRead .W 0xC000) pend (2 ^ 31), rd (.rcCounterRead .W 0xC004) pend 0,
    does (.rcCounterRead .W 0x8200) pend pend, emits (.rcCounterRead .W 0xC008) pend .barUnsupported],
   [regRow 0x7FFC == none && regRow 0x0030 == none, (x.barRead ⟨used, .active, false⟩ 0x7FFC).1 == 0, does (w 0x7FFC 7) x x, quiet (w 0x7FFC 7) x,
    opIs 0x04 (sf 0x7FFC) && completes (.setFieldRegister .W) ring (sf 0x7FFC) 0 0 ring, does (w 0xC000 7) x x, does (w 0xC007 7) x x, quiet (w 0xC004 7) x,
    does (w 0x8200 7) x x, raises (w 0xC008 7) x 0x5A (0xC008 + 65536 * 7), raises (w 0xBFFC 0xABCDE) x 0x5A (0xBFFC + 65536 * 0xBCDE),
    does (.barAccessSize .W false 0xFFFF 7) x x, emits (.barAccessSize .W false 0x8200 7) x .barUnsupported],
   [ends (.bootComplete .W) done fun z => z.power == .active && z.on F.bootDone && z.get F.bootMs == 200, raises (.bootComplete .W) fails 0xF0 200,
    does (.bootComplete .W) boot' boot', does (.bootComplete .W) x x, ends (.sysSealWrite .W 0xFFFF5EA1) x fun z => z.on F.sealed,
    raises (.sysSealWrite .W 0x5EA1) x 0xF2 0, does (.sysSealWrite .W 0x5EA0) x x, does (.sysSealWrite .W 0x5EA1) sealed' sealed', quiet (.sysSealWrite .W 0x5EA1) sealed',
    does (w 0x1868 1) sealed' sealed', does (w 0x1874 1) sealed' sealed']].flatten

theorem witness_bar : bar.all id = true := by decide +kernel

/-- The queue, the other die, raises and masks. -/
def whole : List Bool :=
  let x := act
  let s := st x
  let sealed' : Instr := .sysSealWrite .E 0x5EA1
  let stepped (s : State) (p : State → Bool) : Bool := match step s with | .next t => p t | _ => false
  let masked := (ring.put (F.evtMask 2) (2 ^ 18)).put (F.evtMask 4) (2 ^ 16)
  let lost := { masked with hif := { masked.hif with lost := 2, logLost := 3 } }
  let log (y : Die) : Die := { y with hif := { y.hif with logging := true } }
  let y := ring.raiseNow 0x90 7 true
  [stepped { s with pending := [sealed', .nop .W] } fun t => t.e.on F.sealed && !t.w.on F.sealed && t.pending == [.nop .W] && decide (t.w = s.w ∧ t.mod = s.mod),
   stepped s fun t => t.w.cclk == 1 && t.e.cclk == 1 && t.pending == [], stepped { s with mod := { used with phase := .dormant } } fun t => t.w.cclk == 0,
   stepped { s with pending := [sealed'], mod := { used with phase := .faultHold } } fun t => !t.e.on F.sealed,
   after (.rtcSet .W) (st ring) fun t => decide (t.mod = used), ofModule (.mfrRtcRead false),
   severity 0x90 != 3 && ring.evtSpace && !ring.hif.logging && !ring.hif.d3hot && ring.hif.backlog.isEmpty && y.out.length == 1 && y.hif.evtTail == 1,
   (masked.raiseNow 0x90 7 true).out.isEmpty && (masked.raiseNow 0x90 7 true).get F.evtCode == 0x90, (ring.raiseNow 0x90 7 false).out.isEmpty,
   ((log ring).raiseNow 0x90 7 true).hif.backlog.length == 1, lost.eventsLost.hif.lost == 0 && lost.eventsLost.get F.evtDetail == 5 && lost.eventsLost.out.isEmpty,
   severity 7 == 3, !((ring.put (F.evtMask 0) (2 ^ 7)).raiseNow 7 0 true).out.isEmpty]

theorem witness_whole : whole.all id = true := by decide +kernel

/-- Reset values that the spec tables, and words of the rows that give bits. -/
def values : List Bool :=
  let x := Die.reset .W
  [x.get F.idleMs == 10000, x.get F.stripBase == 229376, x.get F.stageBase == 253952, x.get F.trmAuto == 7, (Die.reset .E).id == .E,
   (List.range 4).all fun k => x.get (trimKind k) == 0, decodeTableWord 8 3 == none]

theorem witness_values : values.all id = true := by decide +kernel

/-- A record of a correction map of the half of 8 × 8, at map copy A, with erased bytes as its payload. -/
def mapHead : List Byte :=
  [0x43, 0x53, 0x54, 0x52, 1, 1, 0, 0] ++ List.replicate 16 7 ++ [0, 0, 1, 0] ++ le 4 1156 ++ le 4 1156 ++ List.replicate 8 0 ++
    [8, 0, 8, 0] ++ List.replicate 12 0
def mapped : Die :=
  let x := (ready8.flag F.corFold true).flag F.building true
  { x with
    wear := { x.wear with build := true, pass := true }
    cst := { x.cst with flash := Memory.writeN 0xFF [] 524288 (mapHead ++ [120, 104, 138, 36]) } }

theorem readN_past (d : Byte) (m : List Host.Cell) (n a : Nat) (h : ∀ p ∈ m, p.1 < a) :
    Memory.readN d m a n = List.replicate n d := by
  induction n generalizing a with
  | zero => rfl
  | succ n ih =>
    have hm : m.find? (·.1 == a) = none := by
      rw [List.find?_eq_none]
      intro p hp
      have := h p hp
      simp; omega
    rw [Memory.readN, ih (a + 1) fun p hp => Nat.lt_succ_of_lt (h p hp), Memory.read, smGet, hm]
    rfl

/-- Register values that follow one another, each over 68 more erased bytes. -/
def crcChain (r : Nat) : List Nat → Bool
  | [] => true
  | q :: t => crcR 0xEDB88320 (List.replicate 68 0xFF) r == q && crcChain q t

theorem crcR_chain (rs : List Nat) (r : Nat) (h : crcChain r rs = true) :
    crcR 0xEDB88320 (List.replicate (68 * rs.length) 0xFF) r = rs.getLastD r := by
  induction rs generalizing r with
  | nil => rfl
  | cons q t ih =>
    simp only [crcChain, Bool.and_eq_true, beq_iff_eq] at h
    rw [List.length_cons, Nat.mul_succ, Nat.add_comm, List.replicate_add, crcR, List.foldl_append]
    show crcR 0xEDB88320 _ (crcR 0xEDB88320 _ r) = _
    rw [h.1, ih q h.2, List.getLastD_cons]

/-- The values over the header and the payload. -/
def mapCrcs : List Nat :=
  [3506849281, 2479142798, 3862703141, 1913432975, 3294586717, 3477522302, 3110316392, 2868118562, 3265597556, 4015038733,
   2507593895, 561799295, 2267156366, 3932548521, 2020685278, 2902999899, 3681916807]

theorem crc_head : crcR 0xEDB88320 mapHead 0xFFFFFFFF = 3468129718 := by decide +kernel

theorem crc_links : crcChain 3468129718 mapCrcs = true := by decide +kernel

theorem cvuField_1 (bs : List Byte) : cvuField 1 4 bs = le 4 (crcR 0xEDB88320 bs 0xFFFFFFFF ^^^ 0xFFFFFFFF) := rfl

theorem map_check : cvuField 1 4 (mapHead ++ List.replicate 1156 0xFF) = [120, 104, 138, 36] := by
  have h := crcR_chain mapCrcs _ crc_links
  have app (p : Nat) (a b : List Byte) (r : Nat) : crcR p (a ++ b) r = crcR p b (crcR p a r) := List.foldl_append
  rw [cvuField_1, app, crc_head, show 1156 = 68 * mapCrcs.length from rfl, h]
  decide +kernel

theorem map_head : mapped.recHead 8 = mapHead ++ [120, 104, 138, 36] := by decide +kernel

theorem map_pay : mapped.flashRead 524352 1156 = List.replicate 1156 0xFF :=
  readN_past _ _ _ _ (by decide +kernel)

theorem map_ok : mapped.recordOk 8 = true := by
  have hp : rPlen (mapped.recHead 8) = 1156 := by rw [map_head]; decide +kernel
  have hr : mapped.isRecord 8 = true := by rw [Die.isRecord, map_head]; decide +kernel
  have hc : cvuSel mapped 3 = 1 := by decide +kernel
  have he : mapped.underErase 8 = false := by decide +kernel
  have ht : List.take 60 (mapHead ++ [120, 104, 138, 36]) = mapHead := by decide +kernel
  have hb : bytesAt (mapHead ++ [120, 104, 138, 36]) 60 4 = [120, 104, 138, 36] := by decide +kernel
  rw [map_head] at hp
  simp only [Die.recordOk, he, hr, hc, recCheck, map_head, hp, ht, hb]
  rw [show 8 * flashBlock + 64 = 524352 from rfl, map_pay, map_check]
  decide +kernel

theorem map_fits : mapped.recordFits (mapHead ++ [120, 104, 138, 36]) 1 0 1156 8 0 = true := by
  have hr : mapped.recordOk (8 + 0) = true := map_ok
  have hh : mapped.recHead (8 + 0) = mapHead ++ [120, 104, 138, 36] := map_head
  have hw : mapped.width = 8 := by decide +kernel
  have hv : mapped.height = 8 := by decide +kernel
  simp only [Die.recordFits, hr, hh, hw, hv]
  decide +kernel

theorem map_good : mapped.mapBad 0 = none := by
  have hb : mapped.bankBytes = 1156 := by decide +kernel
  have hr : mapped.isRecord 8 = true := by decide +kernel
  have hn : rCount (mapHead ++ [120, 104, 138, 36]) = 1 := by decide +kernel
  rw [Die.mapBad, hb, show mapBlock 0 = 8 from rfl]
  simp only [Die.setBad, hr, map_head, hn]
  rw [show List.range 1 = [0] from rfl, List.find?_singleton, map_fits]
  rfl

theorem map_source : mapped.mapSource = some 0 := by
  have hr : mapped.isRecord 1160 = false := by decide +kernel
  have hB : mapped.mapBad 1 = some 0xFFFF := by
    rw [Die.mapBad, show mapBlock 1 = 1160 from rfl, Die.setBad, hr]
    rfl
  have hk : rKey (mapped.recHead (mapBlock 0)) = mapped.wear.key.getD [] := by decide +kernel
  have hs : mapped.on F.cstReady = true := by decide +kernel
  simp only [Die.mapSource, hs, Die.pickMap, map_good, hB, hk]
  simp [pickCopy]

/-- A build, a start of a pass and its end find the map. -/
theorem witness_mapSource : mapped.wear.build = true ∧ mapped.wear.pass = true ∧ mapped.mapSource = some 0 ∧
    mapped.permits 7 true (bankAt mapped.inuse) mapped.bankBytes 1 = true ∧ (mapped.flag F.corFold false).on F.corFold = false :=
  ⟨rfl, rfl, map_source, by decide +kernel, by decide +kernel⟩

end Sys2Proof.Tests
end

