-- ==== Sys2Proof/Proofs/LogCodes.lean ====
section
/-! The log codes of the wear counters (R283). A counter from 1,024 on is written as (1024 + m) × 2^k + r, with a 10-bit mantissa
m and a rest r below 2^k. The code keeps k and m and drops r; the decoded value puts the middle of the range in the place of r. -/

namespace Sys2Proof.Machine

/-- Counter `c`, of at most 48 bits, has exponent `k + 1` and mantissa `m` in its log code, which drops `r`. -/
structure InOctave (k m r c : Nat) : Prop where
  exponent : k < 38
  mantissa : m < 1024
  rest : r < 2 ^ k
  value : c = (1024 + m) * 2 ^ k + r

theorem bitLen_eq_log2_succ : ∀ {n v : Nat}, v ≠ 0 → v < 2 ^ n → bitLen n v = Nat.log2 v + 1
  | 0, v, h0, hv => by omega
  | n + 1, v, h0, hv => by
    rw [bitLen, if_neg h0, Nat.log2_def]
    split
    · rw [bitLen_eq_log2_succ (n := n) (by omega) (by omega), Nat.add_comm]
    · obtain rfl : v = 1 := by omega
      cases n <;> simp [bitLen]

theorem logCode_of_lt {c : Nat} (h : c < 1024) : logCode c = c := if_pos h

/-- The code from 1,024 on, with the library's logarithm in the place of the bit length. -/
theorem logCode_of_le {c : Nat} (h : 1024 ≤ c) (hc : c < 2 ^ 48) :
    logCode c = (Nat.log2 c + 1 - 10) * 1024 + c / 2 ^ (Nat.log2 c + 1 - 10 - 1) % 1024 := by
  rw [logCode, if_neg (by omega), bitLen_eq_log2_succ (by omega) hc]

theorem exists_inOctave {c : Nat} (h : 1024 ≤ c) (hc : c < 2 ^ 48) : ∃ k m r, InOctave k m r c := by
  have h0 : c ≠ 0 := by omega
  obtain ⟨k, hk⟩ : ∃ k, Nat.log2 c = 10 + k := Nat.exists_eq_add_of_le ((Nat.le_log2 h0).2 h)
  have hlt : Nat.log2 c < 48 := (Nat.log2_lt h0).2 hc
  have hpos : 0 < 2 ^ k := Nat.two_pow_pos k
  have hlow : 1024 ≤ c / 2 ^ k := by
    rw [Nat.le_div_iff_mul_le hpos, show 1024 = 2 ^ 10 from rfl, ← pow_add, ← hk]
    exact Nat.log2_self_le h0
  have hhigh : c / 2 ^ k < 2048 := by
    rw [Nat.div_lt_iff_lt_mul hpos, show 2048 = 2 ^ 11 from rfl, ← pow_add, show 11 + k = Nat.log2 c + 1 by omega]
    exact Nat.lt_log2_self
  refine ⟨k, c / 2 ^ k - 1024, c % 2 ^ k, by omega, by omega, Nat.mod_lt _ hpos, ?_⟩
  rw [Nat.add_sub_cancel' hlow, Nat.div_add_mod']

namespace InOctave

variable {k m r c k' m' r' c' : Nat}

theorem le (h : InOctave k m r c) : 1024 * 2 ^ k ≤ c :=
  h.value ▸ Nat.le_add_right_of_le (Nat.mul_le_mul_right _ (Nat.le_add_right _ _))

theorem lt_next (h : InOctave k m r c) : c < (1024 + m + 1) * 2 ^ k := by
  rw [h.value, Nat.succ_mul]
  exact Nat.add_lt_add_left h.rest _

theorem log2_eq (h : InOctave k m r c) : Nat.log2 c = k + 10 := by
  have hpos := Nat.two_pow_pos k
  have hle := h.le
  have hlt : c < 2048 * 2 ^ k :=
    h.lt_next.trans_le (Nat.mul_le_mul_right _ (by have := h.mantissa; omega))
  rw [Nat.log2_eq_iff (by omega), pow_add 2 k 10, show k + 10 + 1 = k + 11 from rfl, pow_add 2 k 11]
  omega

theorem div_eq (h : InOctave k m r c) : c / 2 ^ k = 1024 + m := by
  rw [h.value, Nat.mul_comm, Nat.mul_add_div (Nat.two_pow_pos k), Nat.div_eq_of_lt h.rest, Nat.add_zero]

theorem logCode_eq (h : InOctave k m r c) (hle : 1024 ≤ c) (hc : c < 2 ^ 48) : logCode c = (k + 1) * 1024 + m := by
  rw [logCode_of_le hle hc, h.log2_eq, show k + 10 + 1 - 10 = k + 1 from rfl, Nat.add_sub_cancel, h.div_eq,
    Nat.add_mod_left, Nat.mod_eq_of_lt h.mantissa]

/-- Codes follow the counters: a later octave has the greater exponent, and within one octave the mantissa grows. -/
theorem code_le (h : InOctave k m r c) (h' : InOctave k' m' r' c') (hle : c ≤ c') :
    (k + 1) * 1024 + m ≤ (k' + 1) * 1024 + m' := by
  have hm := h.mantissa
  have hk : k ≤ k' := by
    have hlog : Nat.log2 c ≤ Nat.log2 c' := by
      simpa only [Nat.log2_eq_log_two] using Nat.log_mono_right hle
    rw [h.log2_eq, h'.log2_eq] at hlog
    omega
  obtain rfl | hlt := hk.eq_or_lt
  · have hdiv := Nat.div_le_div_right (c := 2 ^ k) hle
    rw [h.div_eq, h'.div_eq] at hdiv
    omega
  · omega

end InOctave

theorem logCode_le {c : Nat} (hc : c < 2 ^ 48) : logCode c ≤ 39935 := by
  obtain hlt | hle := Nat.lt_or_ge c 1024
  · rw [logCode_of_lt hlt]
    omega
  · obtain ⟨k, m, r, h⟩ := exists_inOctave hle hc
    have hk := h.exponent
    have hm := h.mantissa
    rw [h.logCode_eq hle hc]
    omega

theorem logCode_mono {c c' : Nat} (hcc : c ≤ c') (hc' : c' < 2 ^ 48) : logCode c ≤ logCode c' := by
  have hc : c < 2 ^ 48 := hcc.trans_lt hc'
  obtain hlt' | hle' := Nat.lt_or_ge c' 1024
  · rwa [logCode_of_lt hlt', logCode_of_lt (hcc.trans_lt hlt')]
  obtain ⟨k', m', r', h'⟩ := exists_inOctave hle' hc'
  rw [h'.logCode_eq hle' hc']
  obtain hlt | hle := Nat.lt_or_ge c 1024
  · rw [logCode_of_lt hlt]
    omega
  · obtain ⟨k, m, r, h⟩ := exists_inOctave hle hc
    rw [h.logCode_eq hle hc]
    exact h.code_le h' hcc

/-- The rule's `(e << 10) | ((c >> (e − 1)) & 0x3FF)`. -/
theorem logCode_bits {c : Nat} (hle : 1024 ≤ c) (hc : c < 2 ^ 48) :
    logCode c = ((Nat.log2 c + 1 - 10) <<< 10) ||| ((c >>> (Nat.log2 c + 1 - 10 - 1)) &&& 0x3FF) := by
  rw [logCode_of_le hle hc, show 0x3FF = 2 ^ 10 - 1 from rfl, Nat.and_two_pow_sub_one_eq_mod,
    ← Nat.shiftLeft_add_eq_or_of_lt (Nat.mod_lt _ (Nat.two_pow_pos 10)), Nat.shiftLeft_eq, Nat.shiftRight_eq_div_pow]

theorem logDecode_of_lt {code : Nat} (h : code < 1024) : logDecode code = code :=
  if_pos (Nat.div_eq_of_lt h)

/-- One equation for every exponent from 1 on: at exponent 1 the middle of the range, `2 ^ 0 / 2`, is 0. -/
theorem logDecode_octave {k m : Nat} (hm : m < 1024) :
    logDecode ((k + 1) * 1024 + m) = (1024 + m) * 2 ^ k + 2 ^ k / 2 := by
  have he : ((k + 1) * 1024 + m) / 1024 = k + 1 := by omega
  have hf : ((k + 1) * 1024 + m) % 1024 = m := by omega
  simp only [logDecode, he, hf]
  cases k with
  | zero => simp
  | succ k => simp [pow_succ]

theorem logDecode_fields {e f : Nat} (hf : f < 1024) :
    (e = 0 → logDecode (e * 1024 + f) = e * 1024 + f) ∧
    (e = 1 → logDecode (e * 1024 + f) = (1024 + f) * 2 ^ (e - 1)) ∧
    (2 ≤ e → logDecode (e * 1024 + f) = (1024 + f) * 2 ^ (e - 1) + 2 ^ (e - 2)) := by
  refine ⟨?_, ?_, fun he => ?_⟩
  · rintro rfl
    exact logDecode_of_lt (by omega)
  · rintro rfl
    exact logDecode_octave (k := 0) hf
  · obtain ⟨k, rfl⟩ := Nat.exists_eq_add_of_le' he
    rw [logDecode_octave (k := k + 1) hf, pow_succ, Nat.mul_div_cancel _ two_pos]
    rfl

/-- The middle of a range of `2 ^ k` values is at most half the range away from each of them. -/
theorem InOctave.decode_error_le {k m r c : Nat} (h : InOctave k m r c) (hle : 1024 ≤ c) (hc : c < 2 ^ 48) :
    2 * ((logDecode (logCode c) : Int) - c).natAbs ≤ 2 ^ k := by
  have hr := h.rest
  have heven : k = 0 ∨ 2 ^ k % 2 = 0 := by
    cases k with
    | zero => exact .inl rfl
    | succ k => exact .inr (by rw [pow_succ, Nat.mul_mod_left])
  rw [h.logCode_eq hle hc, logDecode_octave h.mantissa]
  have hv := h.value
  generalize (1024 + m) * 2 ^ k = base at hv ⊢
  obtain rfl | heven := heven <;> omega

theorem logDecode_logCode_error {c : Nat} (hc : c < 2 ^ 48) :
    let diff := ((logDecode (logCode c) : Int) - c).natAbs
    (c < 1024 → diff = 0) ∧ (1024 ≤ c → 4 * diff ≤ 2 ^ (Nat.log2 c + 1 - 10)) ∧ 2048 * diff ≤ c := by
  intro diff
  obtain hlt | hle := Nat.lt_or_ge c 1024
  · have hd : diff = 0 := by
      simp only [diff, logCode_of_lt hlt, logDecode_of_lt hlt, sub_self, Int.natAbs_zero]
    omega
  · obtain ⟨k, m, r, h⟩ := exists_inOctave hle hc
    have hd : 2 * diff ≤ 2 ^ k := h.decode_error_le hle hc
    have hlow := h.le
    rw [h.log2_eq, show k + 10 + 1 - 10 = k + 1 from rfl, pow_succ]
    omega

end Sys2Proof.Machine

namespace Sys2Proof

open Machine

/-- Settles O43: a counter from 1,024 on lies in one octave, which gives its code, and the decoded value is the middle of
the counters with that code. -/
theorem logCodes : Obligations.LogCodes := by
  refine ⟨fun _ h => logCode_of_lt h, fun _ h hc => logCode_bits h hc, fun _ hc => logCode_le hc,
    fun _ _ h hc => logCode_mono h hc, fun code => ?_, fun _ hc => logDecode_logCode_error hc⟩
  have hcode : code = (code >>> 10) * 1024 + (code &&& 0x3FF) := by
    rw [show 0x3FF = 2 ^ 10 - 1 from rfl, Nat.and_two_pow_sub_one_eq_mod, Nat.shiftRight_eq_div_pow, Nat.div_add_mod']
  have hf : code &&& 0x3FF < 1024 := Nat.and_lt_two_pow (n := 10) _ (by decide)
  have hfields := logDecode_fields (e := code >>> 10) hf
  rwa [← hcode] at hfields

end Sys2Proof
end

section
/-! The dither of a driver level (R296, R297). A component is shortened by s bits after t < 2^s has been added, so one frame is wrong
by less than one driver LSB. Over the four phases t takes the values (M + φ) mod 4 at 14 bits, a rotation of 0 to 3, so what is lost
in the division by 4 adds up to nothing. At 12 bits t = (M + 4φ) mod 16 keeps M mod 4 in its low bits and rotates M / 4 above them:
the low bits only round the component to (v' + M mod 4) / 4, and the rest is the dither of 14 bits. -/

namespace Sys2Proof.Machine

/-- The entry of the dither matrix for colour `c` of the lamp at (`px`, `y`) (R296). -/
def Die.ditherCell (x : Die) (c px y : Nat) : Nat :=
  let gx := (px + x.get F.oddOx + bits x.lyr.dphase 2 2 + c) % 4
  let gy := (y + x.get F.oddOy + bits x.lyr.dphase 4 2) % 4
  ditherMatrix.getD (4 * gy + gx) 0

/-- What is added to a component at depth `d` before it is shortened, t of R296, for the matrix entry `m` in phase `f`. -/
def ditherAddend (on : Bool) (d m f : Nat) : Nat :=
  if !on then 0 else if d = 12 then (m + 4 * f) % 16 else if d = 14 then (m + f) % 4 else 0

theorem Die.depth_cases (x : Die) : x.depth = 12 ∨ x.depth = 14 ∨ x.depth = 16 := by
  unfold Die.depth
  split_ifs <;> simp

/-- ODD_STATUS.PHASE enters the dither through the addend alone: depth, switch and matrix entry lie in other registers. -/
theorem dither_put_oddPhase (x : Die) (v c px y f : Nat) :
    (x.put F.oddPhase f).dither v c px y =
      (v - v / 2 ^ x.depth + ditherAddend (x.on F.dithEn) x.depth (x.ditherCell c px y) (f % 4)) / 2 ^ (16 - x.depth) := by
  have hother (g : F) (hg : g.off ≠ F.oddPhase.off) : (x.put F.oddPhase f).get g = x.get g :=
    get_put_other x F.oddPhase g f (by decide) (.inl hg)
  have hdepth : (x.put F.oddPhase f).depth = x.depth := by
    simp only [Die.depth, hother F.depth (by decide)]
  have hon : (x.put F.oddPhase f).on F.dithEn = x.on F.dithEn := by
    simp only [Die.on, hother F.dithEn (by decide)]
  have hphase : (x.put F.oddPhase f).get F.oddPhase = f % 4 := get_put_self x F.oddPhase f (by decide)
  simp only [Die.dither, hdepth, hon, hphase, hother F.oddOx (by decide), hother F.oddOy (by decide), Die.put_lyr]
  rfl

theorem ditherAddend_lt (on : Bool) {d : Nat} (m f : Nat) (hd : d = 12 ∨ d = 14 ∨ d = 16) :
    ditherAddend on d m f < 2 ^ (16 - d) := by
  unfold ditherAddend
  cases on with
  | false => exact Nat.two_pow_pos _
  | true =>
    obtain rfl | rfl | rfl := hd
    · exact Nat.mod_lt _ (by decide)
    · exact Nat.mod_lt _ (by decide)
    · exact Nat.one_pos

/-- Rounding down after less than one step has been added is off by less than one step. -/
theorem mul_add_div_error_lt {n t b : Nat} (ht : t < b) : ((b * ((n + t) / b) : Nat) - (n : Int)).natAbs < b := by
  have hsplit := Nat.div_add_mod (n + t) b
  have hrest := Nat.mod_lt (n + t) (Nat.zero_lt_of_lt ht)
  omega

theorem dither_error_lt (x : Die) (v c px y f : Nat) :
    ((2 ^ (16 - x.depth) * (x.put F.oddPhase f).dither v c px y : Nat) - ((v - v / 2 ^ x.depth : Nat) : Int)).natAbs <
      2 ^ (16 - x.depth) := by
  rw [dither_put_oddPhase]
  exact mul_add_div_error_lt (ditherAddend_lt _ _ _ x.depth_cases)

/-- At 12 bits the low bits of the matrix entry round the component to 14 bits, and its high bits dither that. -/
theorem dither_of_depth_12 {x : Die} (hon : x.on F.dithEn = true) (hd : x.depth = 12) (v c px y f : Nat) :
    (x.put F.oddPhase f).dither v c px y =
      ((v - v / 2 ^ x.depth + x.ditherCell c px y % 4) / 4 + (x.ditherCell c px y / 4 + f) % 4) / 4 := by
  rw [dither_put_oddPhase, hon, hd]
  simp only [ditherAddend, Bool.not_true, Bool.false_eq_true, if_false, if_true, Nat.reduceSub, Nat.reducePow]
  omega

theorem dither_of_depth_14 {x : Die} (hon : x.on F.dithEn = true) (hd : x.depth = 14) (v c px y f : Nat) :
    (x.put F.oddPhase f).dither v c px y = (v - v / 2 ^ x.depth + (x.ditherCell c px y + f) % 4) / 4 := by
  rw [dither_put_oddPhase, hon, hd]
  simp [ditherAddend]

theorem dither_of_depth_16 {x : Die} (hd : x.depth = 16) (v c px y f : Nat) :
    (x.put F.oddPhase f).dither v c px y = v - v / 2 ^ x.depth := by
  rw [dither_put_oddPhase, hd]
  simp [ditherAddend]

theorem sum_div_four_add (n : Nat) : n / 4 + (n + 1) / 4 + (n + 2) / 4 + (n + 3) / 4 = n := by
  omega

/-- What a division by 4 loses is made up over the four rotations of what is added. -/
theorem sum_div_four_rotations (n a : Nat) :
    (n + (a + 0) % 4) / 4 + (n + (a + 1) % 4) / 4 + (n + (a + 2) % 4) / 4 + (n + (a + 3) % 4) / 4 = n := by
  have hn := sum_div_four_add n
  have ha : a % 4 = 0 ∨ a % 4 = 1 ∨ a % 4 = 2 ∨ a % 4 = 3 := by omega
  rw [Nat.add_mod a 0, Nat.add_mod a 1, Nat.add_mod a 2, Nat.add_mod a 3]
  obtain ha | ha | ha | ha := ha <;> rw [ha] <;> simp only [Nat.reduceAdd, Nat.reduceMod, Nat.add_zero] <;> omega

theorem exists_rotation_eq (a : Nat) {k : Nat} (hk : k < 4) : ∃ f < 4, (a + f) % 4 = k :=
  ⟨(k + 3 * a) % 4, Nat.mod_lt _ (by decide), by omega⟩

/-- The four phases at 12 bits: the sum is the component rounded with `j`, within 3 of it, and the addends are `j`, `j + 4`,
`j + 8` and `j + 12`. -/
theorem dither_phases_of_depth_12 {x : Die} (hon : x.on F.dithEn = true) (hd : x.depth = 12) (v c px y : Nat) :
    let v' := v - v / 2 ^ x.depth
    let out (phase : Nat) : Nat := (x.put F.oddPhase phase).dither v c px y
    let sum := out 0 + out 1 + out 2 + out 3
    let j := x.ditherCell c px y % 4
    (4 * (sum : Int) - v').natAbs ≤ 3 ∧ sum = (v' + j) / 4 ∧ ∀ k < 4, ∃ phase < 4, out phase = (v' + (j + 4 * k)) / 16 := by
  intro v' out sum j
  have hout (f : Nat) : out f = ((v' + j) / 4 + (x.ditherCell c px y / 4 + f) % 4) / 4 := dither_of_depth_12 hon hd v c px y f
  have hsum : sum = (v' + j) / 4 := by
    simp only [sum, hout, sum_div_four_rotations]
  refine ⟨?_, hsum, fun k hk => ?_⟩
  · have hj : j < 4 := Nat.mod_lt _ (by decide)
    omega
  · obtain ⟨f, hf, hrot⟩ := exists_rotation_eq (x.ditherCell c px y / 4) hk
    refine ⟨f, hf, ?_⟩
    rw [hout, hrot]
    omega

/-- The four phases at 14 bits: the sum is exact, and the addends are 0 to 3. -/
theorem dither_phases_of_depth_14 {x : Die} (hon : x.on F.dithEn = true) (hd : x.depth = 14) (v c px y : Nat) :
    let v' := v - v / 2 ^ x.depth
    let out (phase : Nat) : Nat := (x.put F.oddPhase phase).dither v c px y
    out 0 + out 1 + out 2 + out 3 = v' ∧ ∀ k < 4, ∃ phase < 4, out phase = (v' + k) / 4 := by
  intro v' out
  have hout (f : Nat) : out f = (v' + (x.ditherCell c px y + f) % 4) / 4 := dither_of_depth_14 hon hd v c px y f
  refine ⟨by simp only [hout, sum_div_four_rotations], fun k hk => ?_⟩
  obtain ⟨f, hf, hrot⟩ := exists_rotation_eq (x.ditherCell c px y) hk
  exact ⟨f, hf, by rw [hout, hrot]⟩

end Sys2Proof.Machine

namespace Sys2Proof

open Machine

/-- Settles O45: the addend is below one driver LSB, and over the four phases it is a rotation of the addends of R297; at 16 bits
there is none, so all four phases are the component itself. -/
theorem ditherErrorIsBounded : Obligations.DitherErrorIsBounded := by
  intro x v c px y _ _ v' out sum gx gy j
  refine ⟨fun k _ => dither_error_lt x v c px y k, fun hon hd => dither_phases_of_depth_12 hon hd v c px y,
    fun hon hd => dither_phases_of_depth_14 hon hd v c px y, fun _ hd => ?_⟩
  have hout (f : Nat) : out f = v' := dither_of_depth_16 hd v c px y f
  simp only [sum, hout]
  omega

end Sys2Proof
end

section
/-! The event masks (R376). A raise is two steps: `noteEvent` writes the EVT registers, whatever the mask says, and `deliver` hands
the entry on unless the mask or the rate limit holds it back. The second step touches registers of the host interface alone, which
lie below 0x7800, so the EVT registers keep what the first step wrote. The first step in turn changes nothing that the event ring is
found by. -/

namespace Sys2Proof.Machine

theorem severity_lt (code : Nat) : severity code < 4 := by
  unfold severity
  split_ifs <;> decide

/-- Little-endian bytes spell the number again, modulo their width (R3). -/
theorem ofLe_le : ∀ n v : Nat, ofLe (le n v) = v % 256 ^ n
  | 0, v => (Nat.mod_one v).symm
  | n + 1, v => by
    rw [le, ofLe, ofLe_le n, BitVec.toNat_ofNat, pow_succ' 256]
    exact Nat.mod_mul.symm

/-- The fields of an event entry at the bytes of R192. -/
theorem natAt_eventBytes_code (d : DieId) (e : Event) (eseq phase : Nat) :
    natAt (eventBytes d e eseq phase) 0 1 = e.code % 2 ^ 8 := ofLe_le 1 e.code

theorem natAt_eventBytes_detail (d : DieId) (e : Event) (eseq phase : Nat) :
    natAt (eventBytes d e eseq phase) 8 4 = e.detail % 2 ^ 32 := ofLe_le 4 e.detail

theorem length_eventBytes (d : DieId) (e : Event) (eseq phase : Nat) : (eventBytes d e eseq phase).length = 16 := rfl

theorem get_bump_self (x : Die) (f : F) (k : Nat) (h : f.lo + f.width ≤ 32) :
    (x.bump f k).get f = min (x.get f + k) (2 ^ f.width - 1) := by
  have hpos := Nat.two_pow_pos f.width
  rw [Die.bump, get_put_self x f _ h, Nat.mod_eq_of_lt (by omega)]

/-! The EVT registers as the raise is noted. -/

@[simp] theorem noteEvent_hif (x : Die) (code detail : Nat) : (x.noteEvent code detail).hif = x.hif := rfl
@[simp] theorem noteEvent_out (x : Die) (code detail : Nat) : (x.noteEvent code detail).out = x.out := rfl

theorem noteEvent_base64 (x : Die) (code detail : Nat) {off : Nat} (hlo : isReport off = false) (hhi : isReport (off + 4) = false) :
    (x.noteEvent code detail).base64 off = x.base64 off := by
  have hcore := core_noteEvent x code detail
  rw [Die.base64, Die.base64, reg_of_core hcore hlo, reg_of_core hcore hhi]

theorem noteEvent_evtLog2 (x : Die) (code detail : Nat) : (x.noteEvent code detail).get F.evtLog2 = x.get F.evtLog2 :=
  get_of_core (core_noteEvent x code detail) F.evtLog2 (by decide)

theorem noteEvent_evtSpace (x : Die) (code detail : Nat) : (x.noteEvent code detail).evtSpace = x.evtSpace := by
  rw [Die.evtSpace, Die.evtSpace, noteEvent_evtLog2, noteEvent_hif]

theorem evtSev_noteEvent (x : Die) (code detail : Nat) : (x.noteEvent code detail).get F.evtSev = severity code := by
  rw [Die.noteEvent, Die.bump, get_put_other _ _ _ _ le_rfl (.inl (by simp only [F.evtSev, F.evtRaised]; omega)),
    get_put_other _ _ _ _ (by decide) (.inl (by decide)), get_put_self _ _ _ (by decide)]
  exact Nat.mod_eq_of_lt (severity_lt code)

/-- The counter of the code's range goes one up; the registers written before it are others. -/
theorem evtRaised_noteEvent (x : Die) (code detail : Nat) :
    More x (x.noteEvent code detail) (F.evtRaised (code / 16 % 16)) := by
  have hne (f : F) (h : f.off < 0x7840) : (F.evtRaised (code / 16 % 16)).off ≠ f.off := by
    simp only [F.evtRaised]
    omega
  rw [More, Die.noteEvent, get_bump_self _ _ _ le_rfl]
  rw [get_put_other _ F.evtDetail _ _ (by decide) (.inl (hne _ (by decide))),
    get_put_other _ F.evtSev _ _ (by decide) (.inl (hne _ (by decide))),
    get_put_other _ F.evtCode _ _ (by decide) (.inl (hne _ (by decide)))]

/-! The entry on its way to the ring or the backlog: it leaves the registers from 0x7800 on alone. -/

theorem reg_writeEvent_of_le (x : Die) (e : Event) {k : Nat} (hk : 0x7800 ≤ k) : (x.writeEvent e).reg k = x.reg k :=
  reg_put_ne (x.emit _) F.evtSeq _ k (by simp only [F.evtSeq]; omega)

theorem reg_dropEvent_of_le (x : Die) (e : Event) {k : Nat} (hk : 0x7800 ≤ k) : (x.dropEvent e).reg k = x.reg k := by
  unfold Die.dropEvent
  split
  · exact (reg_bump_ne _ F.stickyCount _ k (by simp only [F.stickyCount]; omega)).trans
      (reg_put_ne x F.stickyRanges _ k (by simp only [F.stickyRanges]; omega))
  · exact reg_bump_ne x F.evtDrop _ k (by simp only [F.evtDrop]; omega)

theorem reg_deliver_of_le (x : Die) (e : Event) {k : Nat} (hk : 0x7800 ≤ k) : (x.deliver e).reg k = x.reg k := by
  unfold Die.deliver
  split
  · split
    · rfl
    · exact reg_dropEvent_of_le x e hk
  · split
    · exact reg_writeEvent_of_le x e hk
    · exact (reg_flag_ne (x.dropEvent e) F.evtFull true k (by simp only [F.evtFull]; omega)).trans (reg_dropEvent_of_le x e hk)

theorem deliver_of_space {x : Die} (e : Event) (hlog : x.hif.logging = false) (hd3 : x.hif.d3hot = false)
    (hback : x.hif.backlog = []) (hspace : x.evtSpace = true) : x.deliver e = x.writeEvent e := by
  rw [Die.deliver, hlog, hd3, hback, hspace]
  rfl

theorem deliver_of_logging {x : Die} (e : Event) (hlog : x.hif.logging = true) (hlen : x.hif.backlog.length < 64) :
    x.deliver e = { x with hif := { x.hif with backlog := x.hif.backlog ++ [e] } } := by
  rw [Die.deliver, hlog, Bool.true_or, if_pos rfl, if_pos hlen]

/-! The raise as a whole. -/

theorem masked_iff (x : Die) (code : Nat) :
    x.masked code = true ↔ severity code ≠ 3 ∧ (x.get (F.evtMask (code / 32))).testBit (code % 32) = true := by
  rw [Die.masked, Bool.and_eq_true, bne_iff_ne, bitAt]

theorem masked_eq_false_iff (x : Die) (code : Nat) :
    x.masked code = false ↔ severity code = 3 ∨ ¬ (x.get (F.evtMask (code / 32))).testBit (code % 32) = true := by
  rw [← Bool.not_eq_true, masked_iff, not_and_or, not_not]

/-- The entry of a raise, with Accord time as it is (R192). -/
def Die.entryOf (x : Die) (code detail : Nat) : Event := ⟨code, x.ns % 2 ^ 48, detail % 2 ^ 32⟩

theorem raiseNow_of_masked {x : Die} {code : Nat} (h : x.masked code = true) (detail : Nat) (entry : Bool) :
    x.raiseNow code detail entry = x.noteEvent code detail := by
  rw [Die.raiseNow, h]
  rfl

theorem raiseNow_of_not_masked {x : Die} {code : Nat} (h : x.masked code = false) (detail : Nat) :
    x.raiseNow code detail true = (x.noteEvent code detail).deliver (x.entryOf code detail) := by
  rw [Die.raiseNow, h]
  rfl

/-- What becomes of the entry does not show in the EVT registers. -/
theorem get_raiseNow_of_le (x : Die) (code detail : Nat) (entry : Bool) {f : F} (hf : 0x7800 ≤ f.off) :
    (x.raiseNow code detail entry).get f = (x.noteEvent code detail).get f := by
  unfold Die.raiseNow
  dsimp only
  split
  · rfl
  · rw [Die.get, Die.get, reg_deliver_of_le _ _ hf]

/-- A raise under a rate limit is noted, with an entry or without one. -/
theorem raised_raiseLim (x : Die) (period key code detail : Nat) :
    ∃ e, (x.raiseLim period key code detail).hif.raised = x.hif.raised ++ [(code, detail, e)] := by
  unfold Die.raiseLim
  split
  · split
    · exact ⟨false, rfl⟩
    · exact ⟨true, rfl⟩
  · exact ⟨true, rfl⟩

/-- An entry that is not held back goes to the ring's next slot, where the ring has space and nothing waits before it. -/
theorem raiseNow_out_of_space {x : Die} {code : Nat} (h : x.masked code = false) (detail : Nat) (hlog : x.hif.logging = false)
    (hd3 : x.hif.d3hot = false) (hback : x.hif.backlog = []) (hspace : x.evtSpace = true) :
    ∃ eseq phase, (x.raiseNow code detail true).out = x.out ++
      [.hostWrite (x.base64 0x2028 + 16 * (x.hif.evtTail.toNat % ringSize (x.get F.evtLog2)))
        (eventBytes x.id (x.entryOf code detail) eseq phase) false false] := by
  have hspace' : (x.noteEvent code detail).evtSpace = true := (noteEvent_evtSpace x code detail).trans hspace
  rw [raiseNow_of_not_masked h, deliver_of_space (x := x.noteEvent code detail) _ hlog hd3 hback hspace',
    ← noteEvent_base64 x code detail (off := 0x2028) (by decide) (by decide), ← noteEvent_evtLog2 x code detail]
  exact ⟨_, _, rfl⟩

theorem raiseNow_backlog_of_logging {x : Die} {code : Nat} (h : x.masked code = false) (detail : Nat) (hlog : x.hif.logging = true)
    (hlen : x.hif.backlog.length < 64) :
    (x.raiseNow code detail true).hif.backlog = x.hif.backlog ++ [x.entryOf code detail] := by
  rw [raiseNow_of_not_masked h, deliver_of_logging (x := x.noteEvent code detail) _ hlog hlen, noteEvent_hif]

/-- The die with its counts of lost events back at 0 (R192, R195). -/
def Die.restartLost (x : Die) : Die := { x with hif := { x.hif with lost := 0, logLost := 0 } }

theorem eventsLost_of_pos {x : Die} (h : 0 < x.hif.lost + x.hif.logLost) :
    x.eventsLost = x.restartLost.raiseNow 0x52 (min (x.hif.lost + x.hif.logLost) 0xFFFFFFFF) true := by
  rw [Die.eventsLost]
  exact if_neg (Nat.ne_of_gt h)

/-- EVENTS_LOST, code 0x52, has bit 18 of EVT_MASK2. -/
theorem masked_restartLost {x : Die} (h : (x.get (F.evtMask 2)).testBit 18 = true) : x.restartLost.masked 0x52 = true :=
  (masked_iff _ _).2 ⟨by decide, h⟩

end Sys2Proof.Machine

namespace Sys2Proof

open Machine

/-- Settles O58: a raise notes the event before it looks at the mask, so the EVT registers show it whatever the mask does to its entry. -/
theorem eventMasksHold : Obligations.EventMasksHold := by
  intro x code detail entry hcode y masked
  obtain ⟨hlast, hdetail⟩ := last_raiseNow x code detail entry hcode
  have hrange : code / 16 % 16 = code / 16 := Nat.mod_eq_of_lt (by omega)
  refine ⟨hlast, hdetail, ?sev, ?raised, fun period key => raised_raiseLim x period key code detail, ?held, ?ring, ?backlog,
    ?lost⟩
  case sev => exact (get_raiseNow_of_le x code detail entry (by decide)).trans (evtSev_noteEvent x code detail)
  case raised =>
    have hmore := evtRaised_noteEvent x code detail
    rw [hrange] at hmore
    exact (get_raiseNow_of_le x code detail entry (Nat.le_add_right_of_le (by decide))).trans hmore
  case held =>
    intro hsev hmask
    have hy : y = x.noteEvent code detail := raiseNow_of_masked ((masked_iff x code).2 ⟨hsev, hmask⟩) detail entry
    exact hy ▸ ⟨rfl, rfl⟩
  case ring =>
    rintro hmask rfl hlog hd3 hback hspace
    obtain ⟨eseq, phase, hout⟩ :=
      raiseNow_out_of_space ((masked_eq_false_iff x code).2 hmask) detail hlog hd3 hback hspace
    refine ⟨_, length_eventBytes .., ?_, ?_, hout⟩
    · exact (natAt_eventBytes_code ..).trans (Nat.mod_eq_of_lt hcode)
    · exact (natAt_eventBytes_detail ..).trans (Nat.mod_mod ..)
  case backlog =>
    rintro hmask rfl hlog hlen
    exact ⟨x.entryOf code detail, rfl, rfl,
      raiseNow_backlog_of_logging ((masked_eq_false_iff x code).2 hmask) detail hlog hlen⟩
  case lost =>
    intro hlost hmask z
    have hz : z = _ := eventsLost_of_pos hlost
    obtain ⟨hzcode, hzdetail⟩ := last_raiseNow x.restartLost 0x52 (min (x.hif.lost + x.hif.logLost) 0xFFFFFFFF) true (by decide)
    rw [← hz] at hzcode hzdetail
    rw [raiseNow_of_masked (masked_restartLost hmask)] at hz
    have hfits : min (x.hif.lost + x.hif.logLost) 0xFFFFFFFF < 2 ^ 32 := by omega
    exact ⟨hz ▸ rfl, hz ▸ rfl, hz ▸ rfl, hzcode, hzdetail.trans (Nat.mod_eq_of_lt hfits)⟩

end Sys2Proof
end

section
/-! Reserved offsets (R384). An offset without a register differs from every offset that the model names, so a read takes the
branch of none of them, and a write finds no register to store to. Beyond 0x8000 the address alone says which structure a write
reaches. -/

namespace Sys2Proof.Machine

theorem regRow_of_reserved {o : Nat} (h : Reserved o) : regRow o = none := h.2.2

theorem ne_of_reserved {o k : Nat} (h : Reserved o) (hk : (regRow k).isSome = true) : o ≠ k := by
  rintro rfl
  rw [regRow_of_reserved h] at hk
  cases hk

theorem notMem_of_reserved {o : Nat} {ks : List Nat} (h : Reserved o) (hks : ∀ k ∈ ks, (regRow k).isSome = true) : o ∉ ks :=
  fun ho => ne_of_reserved h (hks o ho) rfl

/-! A read: no pair, no RC bits, no value. -/

/-- The LO registers of the pairs (R385). -/
def pairLos : List Nat := [0x081C, 0x1808, 0x1850, 0x4014, 0x401C, 0x1050, 0x1070, 0x1090, 0x10B0]

theorem pairHi_eq (o : Nat) : pairHi o = if pairLos.contains o then some (o + 4) else none := rfl

theorem pairLos_registered : ∀ k ∈ pairLos, (regRow k).isSome = true ∧ (regRow (k + 4)).isSome = true := by
  decide +kernel

theorem pairHi_of_reserved {o : Nat} (h : Reserved o) : pairHi o = none := by
  have hlo : o ∉ pairLos := notMem_of_reserved h fun k hk => (pairLos_registered k hk).1
  rw [pairHi_eq, if_neg fun ho => hlo (List.contains_iff_mem.1 ho)]

theorem isPairHi_iff (o : Nat) : isPairHi o = true ↔ ∃ lo ∈ pairLos, o = lo + 4 := by
  rw [isPairHi, pairHi_eq, Bool.and_eq_true, decide_eq_true_eq]
  constructor
  · rintro ⟨hle, hlo⟩
    split at hlo
    case isTrue hmem => exact ⟨o - 4, List.contains_iff_mem.1 hmem, by omega⟩
    case isFalse => cases hlo
  · rintro ⟨lo, hmem, rfl⟩
    rw [Nat.add_sub_cancel, if_pos (List.contains_iff_mem.2 hmem)]
    exact ⟨Nat.le_add_left .., rfl⟩

theorem isPairHi_of_reserved {o : Nat} (h : Reserved o) : isPairHi o = false := by
  refine Bool.eq_false_iff.2 fun hp => ?_
  obtain ⟨lo, hlo, heq⟩ := (isPairHi_iff o).1 hp
  exact ne_of_reserved h (pairLos_registered lo hlo).2 heq

theorem view_of_reserved {o : Nat} (h : Reserved o) (c : Ctx) (x : Die) : x.view c o = 0 := by
  rw [Die.view, regRow_of_reserved h]

theorem rcBits_of_reserved {o : Nat} (h : Reserved o) : rcBits o = 0 := by
  rw [rcBits, regRow_of_reserved h]

theorem clearRc_of_reserved {o : Nat} (h : Reserved o) (x : Die) : x.clearRc o = x := by
  rw [Die.clearRc, if_pos (rcBits_of_reserved h), if_neg (ne_of_reserved h (by decide +kernel))]

theorem barRead_of_reserved {o : Nat} (h : Reserved o) (c : Ctx) (x : Die) : x.barRead c o = (0, x) := by
  unfold Die.barRead
  split
  · rfl
  · rw [isPairHi_of_reserved h, pairHi_of_reserved h, view_of_reserved h]
    simp only [clearRc_of_reserved h, Bool.false_eq_true, if_false]

/-! A write of one DW on the bus. -/

/-- What REGISTER_WRITE does to the die, by the block that holds the address (R177, R368, R384). -/
def Die.dwWrite (x : Die) (off : BitVec 16) (v : Word) (be : BitVec 4) : Die :=
  let o := off.toNat - off.toNat % 4
  if o < 0x8000 then
    if x.served o && (regRow o).isSome then x.barWrite o v (beMask be) else x
  else if o < 0x8200 then x.writeMsix ((o - 0x8000) / 4) v (beMask be)
  else if 0xC000 ≤ o && o < 0xC008 then x
  else x.raise 0x5A (refusedDetail o v)

theorem exec_registerWrite_onDie (d : DieId) (off : BitVec 16) (v : Word) (be : BitVec 4) (s : State) :
    exec (.registerWrite d off v be) s = onDie s d fun _ x => x.dwWrite off v be := rfl

theorem dwWrite_of_reserved {off : BitVec 16} (h : Reserved off.toNat) (x : Die) (v : Word) (be : BitVec 4) :
    x.dwWrite off v be = x := by
  obtain ⟨haligned, hlt, hrow⟩ := h
  simp only [Die.dwWrite, haligned, Nat.sub_zero, hlt, hrow, if_true, Option.isSome_none, Bool.and_false,
    Bool.false_eq_true, if_false]

theorem dwWrite_of_pba {off : BitVec 16} (hlo : 0xC000 ≤ off.toNat) (hhi : off.toNat < 0xC008) (x : Die) (v : Word)
    (be : BitVec 4) : x.dwWrite off v be = x := by
  have hlo' : 0xC000 ≤ off.toNat - off.toNat % 4 := by omega
  have hhi' : off.toNat - off.toNat % 4 < 0xC008 := by omega
  rw [Die.dwWrite, if_neg (by omega), if_neg (by omega), if_pos (by simp only [hlo', hhi', decide_true, Bool.and_self])]

theorem dwWrite_of_beyond {off : BitVec 16} (hlo : 0x8200 ≤ off.toNat) (hpba : off.toNat < 0xC000 ∨ 0xC008 ≤ off.toNat)
    (x : Die) (v : Word) (be : BitVec 4) :
    x.dwWrite off v be = x.raise 0x5A (off.toNat - off.toNat % 4 + 65536 * (v.toNat % 65536)) := by
  have hout : ¬ (0xC000 ≤ off.toNat - off.toNat % 4 ∧ off.toNat - off.toNat % 4 < 0xC008) := by omega
  have hfits : (off.toNat - off.toNat % 4) % 2 ^ 16 = off.toNat - off.toNat % 4 := Nat.mod_eq_of_lt (by omega)
  rw [Die.dwWrite, if_neg (by omega), if_neg (by omega), if_neg (by simpa using hout), refusedDetail, hfits]
  rfl

/-- A write that the host makes through a command finds no register either, and the seal guards none there. -/
theorem sealedBits_of_reserved {o : Nat} (h : Reserved o) (x : Die) (mask : Word) : x.sealedBits o mask = false := by
  have hkey : ¬ (0x1868 ≤ o ∧ o ≤ 0x1874) := by
    have hne : o ∉ [0x1868, 0x186C, 0x1870, 0x1874] := notMem_of_reserved h (by decide +kernel)
    have haligned := h.1
    simp only [List.mem_cons, List.not_mem_nil, or_false] at hne
    omega
  rw [Die.sealedBits, regRow_of_reserved h, ← Bool.decide_and, decide_eq_false hkey, Bool.or_false, Bool.and_false]

theorem maskedWrite_of_reserved {o : Nat} (h : Reserved o) (x : Die) (c : Cmd) (v mask : Word) :
    x.maskedWrite c o v mask = (.now 0 0, x) := by
  have hgclk : o ≠ 0x0408 := ne_of_reserved h (by decide +kernel)
  simp only [Die.maskedWrite, sealedBits_of_reserved h, regRow_of_reserved h, hgclk, decide_false, Bool.false_and, Bool.false_eq_true, if_false,
    Option.isSome_none]

/-! A command that leaves the die as it was. -/

theorem reg_raiseAll_of_nil {x : Die} (h : x.hif.raised = []) (k : Nat) : x.raiseAll.reg k = x.reg k := by
  rw [Die.raiseAll, h]
  rfl

/-- Such a command does nothing and raises nothing. -/
theorem does_quiet_of {s : State} {c : Instr} {d : DieId} {f : Ctx → Die → Die} (h : s.Up d) (e : exec c s = onDie s d f)
    (hf : f (s.ctx d) (s.at d) = s.at d) : Does s c d (s.at d) ∧ Quiet s c d := by
  refine ⟨does_of h e (congrArg Die.core hf), _, e.trans (onDie_up s d f h.1), fun i _ => ?_⟩
  have hraised : (s.at d).hif.raised = [] := h.2
  rw [setDie_die, hf, Die.get, Die.get, reg_finish, reg_raiseAll_of_nil hraised]

theorem setFieldRegister_completes_of_reserved {s : State} {d : DieId} {b : List Byte} (hup : s.Up d) (hop : opIs 0x04 b = true)
    (hmode : natAt b 8 1 = 1) (hres : Reserved (natAt b 16 4))
    (hhead : (s.at d).Head b false false false [(8, 1), (12, 12)] true) :
    Completes s (.setFieldRegister d) d 0 0 (s.at d) := by
  have his : (opIs 0x04 b && natAt b 8 1 == 1) = true := by rw [hop, hmode]; rfl
  have hok : (natAt b 16 4 % 4 == 0 && decide (natAt b 16 4 < 0x8000)) = true := by
    simp only [hres.1, hres.2.1, BEq.rfl, decide_true, Bool.and_self]
  have hhead' : (s.at d).Head b false (never b) (never b) [(8, 1), (12, 12)]
      (natAt b 16 4 % 4 == 0 && decide (natAt b 16 4 < 0x8000)) := hok ▸ hhead
  have hrun := maskedWrite_of_reserved hres (s.at d).popHead (s.at d).headCmd (BitVec.ofNat 32 (natAt b 12 4))
    (BitVec.ofNat 32 (natAt b 20 4))
  refine ⟨does_of hup (exec_setFieldRegister d s) ?_, emits_of hup.1 (exec_setFieldRegister d s) ?_⟩
  · exact (core_hostCmd his hhead').trans ((congrArg (·.2.core) hrun).trans (core_popHead _))
  · exact completion_hostCmd his hhead' hrun rfl rfl rfl rfl rfl

end Sys2Proof.Machine

namespace Sys2Proof

open Machine

/-- Settles O53: a reserved offset is none of those the model gives a meaning, and beyond 0x8000 the address decides. -/
theorem reservedOffsetsHoldNothing : Obligations.ReservedOffsetsHoldNothing := by
  intro s d hup x
  refine ⟨fun o c h => barRead_of_reserved h c x,
    fun o v be h => does_quiet_of hup (exec_registerWrite_onDie d o v be s) (dwWrite_of_reserved h x v be),
    fun b hop hmode hres hhead => setFieldRegister_completes_of_reserved hup hop hmode hres hhead,
    fun o v be _ => ⟨?pba, ?beyond⟩⟩
  case pba =>
    intro hlo hhi
    exact does_quiet_of hup (exec_registerWrite_onDie d o v be s) (dwWrite_of_pba hlo hhi x v be)
  case beyond =>
    intro hlo hpba
    have hwrite := dwWrite_of_beyond hlo hpba x v be
    have hexec := exec_registerWrite_onDie d o v be s
    refine ⟨⟨does_of hup hexec ?_, raises_of (b := true) hup hexec (by decide) ?_⟩,
      does_of hup (exec_barAccessSize d false o v s) (core_emit _ _), emits_of hup.1 (exec_barAccessSize d false o v s) ?_⟩
    · exact (congrArg Die.core hwrite).trans (core_raise x _ _)
    · exact (congrArg (·.hif.raised) hwrite).trans (congrArg (· ++ _) hup.2)
    · exact List.mem_append_right _ (List.mem_singleton_self _)

end Sys2Proof
end
